-- ==== Sys2Proof/Word.lean ====
section
/-! DEFINITION. The plain word types: a command word, a frame, a byte, a bit (00_scope.md R8, R9; 30_encoding.md R42).
-/

namespace Sys2Proof

/-- A command word `cmd[3:0]` (30_encoding.md R42). -/
abbrev Word := BitVec 4

/-- A frame: 56 bits, `F[p]` is the bit at frame position `p` (00_scope.md R9, 20_memory.md R27). -/
abbrev Frame := BitVec 56

/-- One byte of a frame (20_memory.md R27). -/
abbrev Byte := BitVec 8

/-- A bit is 0 (`false`) or 1 (`true`) (00_scope.md R9). -/
abbrev Bit := Bool

end Sys2Proof
end

