-- ==== Sys2Proof/Config.lean ====
section
/-! DEFINITION. The parameters of the block (00_scope.md R6, R7): the fixed ones as numerals, the two open ones
(ROLLOVER_MODE, SLOT_INIT) as free values.
-/

namespace Sys2Proof

/-- The rollover point, chosen when an instance is constructed (00_scope.md R7; 41_bit_assembler.md R62, R63). -/
inductive RolloverMode where
  /-- The reference behaviour: the frame is committed one bit early (R62). -/
  | reference
  /-- The corrected behaviour: the frame is committed after its 56th bit (R63). -/
  | corrected
deriving DecidableEq, Repr, Inhabited

namespace Config

/-- Sample levels (R6 `LEVELS`). -/
abbrev levels : Nat := 3
/-- Bytes of a frame (R6 `FRAME_BYTES`). -/
abbrev frameBytes : Nat := 7
/-- Payload bytes of a frame (R6 `PAYLOAD_BYTES`). -/
abbrev payloadBytes : Nat := 5
/-- Bits of a frame (R6 `FRAME_BITS`). -/
abbrev frameBits : Nat := 56
/-- Slots of the ring buffer (R6 `N_SLOTS`). -/
abbrev nSlots : Nat := 4

/-- `ROLLOVER_MODE` of the instance that `State.reset` constructs: OPEN (R6, R7, 92_eei_decisions.md D5). A free
value, DESIGN CHOICE, log 3. -/
opaque rolloverMode : RolloverMode

/-- `SLOT_INIT`: the contents of the four slots at power-on, any 4 x 56 bits (R6, 10_state.md R20, D9). A free value,
log 4. -/
opaque slotInit : Vector Frame 4

end Config

/-- Emitted bits between two commits, the `T` of 43_public_api.md R86: 55 under REFERENCE, 56 under CORRECTED. -/
def RolloverMode.bitsPerCommit : RolloverMode → Nat
  | .reference => 55
  | .corrected => 56

end Sys2Proof
end

