-- ==== Sys2Proof/Syntax.lean ====
section
/-! DEFINITION. The sample levels and the instructions: one constructor per row of spec/opcode_table.json.
-/

namespace Sys2Proof

/-- A sample level (00_scope.md R9, 30_encoding.md R43). -/
inductive Level where
  | idle
  | high
  | low
deriving DecidableEq, Repr, Inhabited

/-- The rows of the opcode table: the six command words of 30_encoding.md R44 and the ten reserved words of R46. -/
inductive Instr where
  /-- FEED IDLE, word `0x0` (43_public_api.md R80). -/
  | feedIdle
  /-- FEED HIGH, word `0x1` (R80). -/
  | feedHigh
  /-- FEED LOW, word `0x2` (R80). -/
  | feedLow
  /-- RESET, word `0x4` (R81). -/
  | reset
  /-- COMPLETE, word `0x8` (R82). -/
  | complete
  /-- GET_FRAME, word `0xC` (R83). -/
  | getFrame
  /-- Reserved word `0x3`: FEED with the reserved level code (30_encoding.md R46). -/
  | reserved3
  /-- Reserved word `0x5` (R46). -/
  | reserved5
  /-- Reserved word `0x6` (R46). -/
  | reserved6
  /-- Reserved word `0x7` (R46). -/
  | reserved7
  /-- Reserved word `0x9` (R46). -/
  | reserved9
  /-- Reserved word `0xA` (R46). -/
  | reservedA
  /-- Reserved word `0xB` (R46). -/
  | reservedB
  /-- Reserved word `0xD` (R46). -/
  | reservedD
  /-- Reserved word `0xE` (R46). -/
  | reservedE
  /-- Reserved word `0xF` (R46). -/
  | reservedF
deriving DecidableEq, Repr

end Sys2Proof
end

