-- ==== Sys2Proof/WellFormed.lean ====
section
/-! DEFINITION. Which instructions spell a command of the Public API (30_encoding.md R44, R46; 43_public_api.md R84).
-/

namespace Sys2Proof

/-- True of the six commands; false of the ten reserved words, which spell no command (30_encoding.md R46). -/
def Instr.wellFormed : Instr → Bool
  | .feedIdle | .feedHigh | .feedLow | .reset | .complete | .getFrame => true
  | .reserved3 | .reserved5 | .reserved6 | .reserved7 | .reserved9 => false
  | .reservedA | .reservedB | .reservedD | .reservedE | .reservedF => false

end Sys2Proof
end

