-- ==== Sys2Proof/Decode.lean ====
section
/-! DEFINITION. The decoder of a command word, total on the sixteen words (30_encoding.md R42 to R47), the encoder written
from the same table, and the host's numbering of a table word.
-/

namespace Sys2Proof

/-- The operation field `cmd[3:2]` (30_encoding.md R42). -/
def opField (w : Word) : BitVec 2 := w.extractLsb' 2 2

/-- The argument field `cmd[1:0]` (R42). -/
def argField (w : Word) : BitVec 2 := w.extractLsb' 0 2

/-- The code of a level (R43). -/
def levelCode : Level → BitVec 2
  | .idle => 0b00#2
  | .high => 0b01#2
  | .low  => 0b10#2

/-- The level with a given code; `0b11` is reserved and names no level (R43). -/
def levelOfCode (code : BitVec 2) : Option Level :=
  match code[1], code[0] with
  | false, false => some .idle
  | false, true  => some .high
  | true,  false => some .low
  | true,  true  => none

/-- The instruction of a command word: the bits `cmd[3]`, `cmd[2]` (the operation), `cmd[1]`, `cmd[0]` (the argument),
one line per row of the opcode table (R44, R46, R47). A reserved word decodes to the verdict "reserved" under its own
name, never to a neighbouring command. -/
def decodeWord (w : Word) : Instr :=
  match w[3], w[2], w[1], w[0] with
  | false, false, false, false => .feedIdle
  | false, false, false, true  => .feedHigh
  | false, false, true,  false => .feedLow
  | false, false, true,  true  => .reserved3
  | false, true,  false, false => .reset
  | false, true,  false, true  => .reserved5
  | false, true,  true,  false => .reserved6
  | false, true,  true,  true  => .reserved7
  | true,  false, false, false => .complete
  | true,  false, false, true  => .reserved9
  | true,  false, true,  false => .reservedA
  | true,  false, true,  true  => .reservedB
  | true,  true,  false, false => .getFrame
  | true,  true,  false, true  => .reservedD
  | true,  true,  true,  false => .reservedE
  | true,  true,  true,  true  => .reservedF

/-- The command word of an instruction (30_encoding.md R44, R46). -/
def encode : Instr → Word
  | .feedIdle  => 0x0#4
  | .feedHigh  => 0x1#4
  | .feedLow   => 0x2#4
  | .reserved3 => 0x3#4
  | .reset     => 0x4#4
  | .reserved5 => 0x5#4
  | .reserved6 => 0x6#4
  | .reserved7 => 0x7#4
  | .complete  => 0x8#4
  | .reserved9 => 0x9#4
  | .reservedA => 0xA#4
  | .reservedB => 0xB#4
  | .getFrame  => 0xC#4
  | .reservedD => 0xD#4
  | .reservedE => 0xE#4
  | .reservedF => 0xF#4

/-- The command word in a table word of `nbits` bits numbered from bit 0: a command is 4 bits long, so a number with a
bit above bit 3 is no command word. DESIGN CHOICE, log 15. -/
def tableCommand (nbits w : Nat) : Option Word :=
  if w % 2 ^ nbits < 16 then some (BitVec.ofNat 4 (w % 2 ^ nbits)) else none

/-- The instruction the decoder reads from a table word (the host's fixed name; log 15). -/
def decodeTableWord (nbits w : Nat) : Option Instr :=
  (tableCommand nbits w).map decodeWord

end Sys2Proof
end

