-- ==== Sys2Proof/Machine/State.lean ====
section
/-! DEFINITION. The state of the machine as plain data (10_state.md R13), its state after power-on
(70_reset_and_hazards.md R106), and the reasons a step can stop.
-/

namespace Sys2Proof.Machine

/-- The two agents that issue commands (60_exceptions.md R98). -/
inductive Agent where
  /-- The sampling path, which issues FEED and RESET. -/
  | producer
  /-- The consumer loop, which issues COMPLETE and GET_FRAME. -/
  | consumer
deriving DecidableEq, Repr, Inhabited

/-- A command issued by an agent. Either agent may issue any command (60_exceptions.md R98). -/
structure Request where
  agent : Agent
  word : Word
deriving DecidableEq, Repr

/-- What a command returns to its caller (30_encoding.md R48). FEED and RESET return nothing. -/
inductive Result where
  /-- COMPLETE's occupied count, 0 to 3. -/
  | count (n : Fin 4)
  /-- GET_FRAME: `some f` is `ok = 1` with frame `f`; `none` is `ok = 0`, and there is no frame. -/
  | frame (f : Option Frame)
deriving DecidableEq, Repr

/-- A result with the agent it goes to (10_state.md R26). -/
structure Delivery where
  agent : Agent
  result : Result
deriving DecidableEq, Repr

/-- The block's state tuple (10_state.md R13), the instance's rollover mode (00_scope.md R7, log 3), and the model's own
record of its callers: requests not yet taken, the agent served last, results given (log 1, log 2). -/
structure State where
  /-- `last_sample` (R15). -/
  lastSample : Level
  /-- `bit_cursor` (R17). -/
  bitCursor : Fin 56
  /-- `write_index` (R18). -/
  writeIndex : Fin 4
  /-- `read_index` (R19). -/
  readIndex : Fin 4
  /-- `slots[0..3]` (R20). -/
  slots : Vector Frame 4
  /-- `ROLLOVER_MODE`, fixed for the life of the instance (00_scope.md R7, DESIGN CHOICE log 3). -/
  rolloverMode : RolloverMode
  /-- The commands issued and not yet taken, in their total order (20_memory.md R36, DESIGN CHOICE log 1). -/
  pending : List Request
  /-- The agent whose command was taken last (DESIGN CHOICE log 2). -/
  caller : Agent
  /-- The results given, oldest first (10_state.md R26, DESIGN CHOICE log 2). -/
  results : List Delivery
deriving DecidableEq, Repr

/-- Reasons the machine stops with a fault: none. "No exception-style failures exist" (60_exceptions.md R90, R91). -/
inductive Fault where
deriving DecidableEq, Repr

/-- Reasons the model gives a word no step. -/
inductive Refusal where
  /-- Raised by `exec`'s arm of an instruction without a meaning yet (no arm at present). Safe: nothing is proved of it. -/
  | notModelled (mnemonic : String)
  /-- Raised by the meanings of the ten reserved words: "A model must refuse it, giving it no meaning and no step"
  (30_encoding.md R46, 60_exceptions.md R94). Safe: the spec attaches no behaviour to such a word. -/
  | reservedWord (word : Word)
deriving DecidableEq, Repr

/-- The state at power-on, the source's "construction" (70_reset_and_hazards.md R106): no command issued, no result
given. -/
def State.reset : State where
  lastSample := .idle
  bitCursor := 0
  writeIndex := 0
  readIndex := 0
  slots := Config.slotInit
  rolloverMode := Config.rolloverMode
  pending := []
  caller := .producer
  results := []

end Sys2Proof.Machine
end

