-- ==== Sys2Proof/Machine/Frame.lean ====
section
/-! DEFINITION. The layout of a frame (20_memory.md R27 to R30), the write of one bit of a frame (41_bit_assembler.md R58)
and the external check of a frame (20_memory.md R38).
-/

namespace Sys2Proof.Machine

/-- The bit at frame position `p` (00_scope.md R9). -/
def frameBit (f : Frame) (p : Fin 56) : Bit := f[p.val]

/-- The frame with the bit at position `p` replaced, whatever it was (41_bit_assembler.md R58; the spec's decision D6,
log 8). -/
def setFrameBit (f : Frame) (p : Fin 56) (b : Bit) : Frame :=
  let at_p := 1#56 <<< p.val
  if b then f ||| at_p else f &&& ~~~at_p

/-- Byte `j` of a frame: bits `8j+7` to `8j` (20_memory.md R27). -/
def frameByte (f : Frame) (j : Fin 7) : Byte := f.extractLsb' (8 * j.val) 8

/-- The command byte (20_memory.md R28). -/
def frameCommand (f : Frame) : Byte := frameByte f 0

/-- Payload byte `k` (20_memory.md R28). -/
def framePayload (f : Frame) (k : Fin 5) : Byte := frameByte f ⟨k.val + 1, by omega⟩

/-- The checksum byte (20_memory.md R28). -/
def frameChecksum (f : Frame) : Byte := frameByte f 6

/-- The frame with the given bytes in field order, the command byte least significant (20_memory.md R28, R30). -/
def frameOfBytes (b0 b1 b2 b3 b4 b5 b6 : Byte) : Frame :=
  (b6 ++ b5 ++ b4 ++ b3 ++ b2 ++ b1 ++ b0 : BitVec 56)

/-- `verify_frame`, which the surrounding system provides and the block never calls (20_memory.md R37, R38): the
checksum byte equals the exclusive or of the six others. -/
def verifyFrame (f : Frame) : Bool :=
  frameByte f 6 ==
    frameByte f 0 ^^^ frameByte f 1 ^^^ frameByte f 2 ^^^ frameByte f 3 ^^^ frameByte f 4 ^^^ frameByte f 5

end Sys2Proof.Machine
end

