-- ==== Sys2Proof/Machine/Ops.lean ====
section
/-! DEFINITION. The named operations over the slots and the registers (00_scope.md R10): every meaning reads and writes the
state through these. There is no operation that takes an exception or returns from one: the block has none
(60_exceptions.md R91, R95, R96).
-/

namespace Sys2Proof.Machine

/-- `slots[i]` as a whole frame, the primitive `MemRead(i, 56)` (00_scope.md R10). -/
def readSlot (i : Fin 4) (s : State) : Frame := s.slots[i]

/-- One bit of one slot, `slots[i][p]`. -/
def slotBit (i : Fin 4) (p : Fin 56) (s : State) : Bit := frameBit (readSlot i s) p

/-- `slots[i][p] <- b`, the primitive `MemWrite(i, 1 bit at position p, b)` (00_scope.md R10, 41_bit_assembler.md R58). -/
def writeSlotBit (i : Fin 4) (p : Fin 56) (b : Bit) (s : State) : State :=
  { s with slots := s.slots.set i (setFrameBit (readSlot i s) p b) }

/-- `last_sample <- l`. -/
def setLastSample (l : Level) (s : State) : State := { s with lastSample := l }

/-- `bit_cursor <- c`. -/
def setBitCursor (c : Fin 56) (s : State) : State := { s with bitCursor := c }

/-- `write_index <- i`. -/
def setWriteIndex (i : Fin 4) (s : State) : State := { s with writeIndex := i }

/-- `read_index <- i`. -/
def setReadIndex (i : Fin 4) (s : State) : State := { s with readIndex := i }

/-- Give a result to the agent whose command is being executed (10_state.md R26; DESIGN CHOICE, log 2). -/
def deliver (r : Result) (s : State) : State := { s with results := s.results ++ [⟨s.caller, r⟩] }

end Sys2Proof.Machine
end

