-- ==== Sys2Proof/Machine/Operands.lean ====
section
/-! DEFINITION. The block's one operand form: the sample of a FEED (30_encoding.md R45).
-/

namespace Sys2Proof.Machine

/-- The sample operand of an instruction: only FEED has one (30_encoding.md R45). -/
def sampleOf : Instr → Option Level
  | .feedIdle => some .idle
  | .feedHigh => some .high
  | .feedLow  => some .low
  | .reset | .complete | .getFrame => none
  | .reserved3 | .reserved5 | .reserved6 | .reserved7 | .reserved9 => none
  | .reservedA | .reservedB | .reservedD | .reservedE | .reservedF => none

/-- The FEED whose sample is a given level (30_encoding.md R44). -/
def feedOf : Level → Instr
  | .idle => .feedIdle
  | .high => .feedHigh
  | .low  => .feedLow

end Sys2Proof.Machine
end

