-- ==== Sys2Proof/Machine/RingBuffer.lean ====
section
/-! DEFINITION. The Frame Ring Buffer: push, occupied count, pop (42_ring_buffer.md). Where the source's prose speaks of
dropping the oldest frame, the index rules are followed (90_conflicts.md C1, C2; log 13).
-/

namespace Sys2Proof.Machine

/-- An index advanced by one modulo 4 (42_ring_buffer.md R68). -/
def nextIndex (i : Fin 4) : Fin 4 := Fin.ofNat 4 (i.val + 1)

/-- `push()`: advance `write_index`, with no overflow check (42_ring_buffer.md R70). -/
def push (s : State) : State := setWriteIndex (nextIndex s.writeIndex) s

/-- `occupied_count() = (4 + write_index - read_index) mod 4` (42_ring_buffer.md R71). -/
def occupiedCount (s : State) : Fin 4 := Fin.ofNat 4 (4 + s.writeIndex.val - s.readIndex.val)

/-- `pop()`: when a frame is unread, copy `slots[read_index]` out and advance `read_index`; otherwise report empty and
leave the state unchanged (42_ring_buffer.md R72, R73). -/
def pop (s : State) : Option Frame × State :=
  if 0 < (occupiedCount s).val then
    (some (readSlot s.readIndex s), setReadIndex (nextIndex s.readIndex) s)
  else
    (none, s)

end Sys2Proof.Machine
end

