-- ==== Sys2Proof/Machine/BitAssembler.lean ====
section
/-! DEFINITION. The Bit Assembler, the second stage of FEED, and the frame rollover (41_bit_assembler.md).
-/

namespace Sys2Proof.Machine

/-- The candidate cursor `c' = (bit_cursor + 1) mod 56` (41_bit_assembler.md R59). -/
def nextCursor (c : Fin 56) : Fin 56 := Fin.ofNat 56 (c.val + 1)

/-- `rollover(c')`: the frame is full when the cursor has reached 55 (REFERENCE, R62) or has wrapped to 0 after the 56th
bit (CORRECTED, R63). -/
def rollover (m : RolloverMode) (c' : Fin 56) : Bool :=
  match m with
  | .reference => c'.val == 55
  | .corrected => c'.val == 0

/-- `commit()`: push the frame and start a new one at position 0 (41_bit_assembler.md R64). It copies nothing: the bits
are already in the slot (90_conflicts.md C6). -/
def commit (s : State) : State := setBitCursor 0 (push s)

/-- `assemble(b)`: write the bit at the cursor, then commit or advance the cursor (41_bit_assembler.md R58 to R60). The
commit belongs to the FEED that writes the frame's last bit (R62, the spec's decision D7, log 9). -/
def assemble (b : Bit) (s : State) : State :=
  let written := writeSlotBit s.writeIndex s.bitCursor b s
  let c' := nextCursor s.bitCursor
  if rollover s.rolloverMode c' then commit written else setBitCursor c' written

/-- The assembler run on the decoder's output: a FEED that emits nothing assembles nothing (41_bit_assembler.md R57, R61). -/
def assembleEmitted (out : Option Bit) (s : State) : State :=
  match out with
  | none => s
  | some b => assemble b s

end Sys2Proof.Machine
end

