-- ==== Sys2Proof/Machine/Flags.lean ====
section
/-! DEFINITION. The block has no flags or condition codes (10_state.md R24). What a caller tests instead is the result of
its command, in the encoding of 30_encoding.md R48.
-/

namespace Sys2Proof.Machine

/-- COMPLETE's `count[1:0]`; absent from GET_FRAME's result (30_encoding.md R48). -/
def resultCount : Result → Option (BitVec 2)
  | .count n => some (BitVec.ofNat 2 n.val)
  | .frame _ => none

/-- GET_FRAME's `ok`; absent from COMPLETE's result (30_encoding.md R48). -/
def resultOk : Result → Option Bit
  | .count _ => none
  | .frame f => some f.isSome

/-- GET_FRAME's `frame[55:0]`, which exists only when `ok = 1` (30_encoding.md R48, 43_public_api.md R87). -/
def resultFrame : Result → Option Frame
  | .count _ => none
  | .frame f => f

end Sys2Proof.Machine
end

