-- ==== Sys2Proof/Machine/TransitionDecoder.lean ====
section
/-! DEFINITION. The Transition Decoder, the first stage of FEED (40_transition_decoder.md).
-/

namespace Sys2Proof.Machine

/-- The bit a sample `l` emits after the sample `prev`: none on a steady level (R50); on a transition the level being
exited decides (R51). -/
def emitted (prev l : Level) : Option Bit :=
  if l = prev then none
  else
    match prev with
    | .high => some true
    | .low  => some false
    | .idle => none

/-- `decode(l)`: the emitted bit, and `last_sample <- l` unconditionally (R50, R52). -/
def decodeSample (l : Level) (s : State) : Option Bit × State :=
  (emitted s.lastSample l, setLastSample l s)

end Sys2Proof.Machine
end

