-- ==== Sys2Proof/Machine/PublicApi.lean ====
section
/-! DEFINITION. The meanings of the four commands (43_public_api.md R80 to R83): FEED in its three words, RESET, COMPLETE,
GET_FRAME.
-/

namespace Sys2Proof.Machine

/-- FEED(l): "delegates to Transition Decoder then Bit Assembler" (43_public_api.md R80). -/
def feed (l : Level) (s : State) : State :=
  let decoded := decodeSample l s
  assembleEmitted decoded.1 decoded.2

/-- FEED IDLE (43_public_api.md R80). -/
def execFeedIdle (s : State) : Host.Outcome State Fault Refusal := .next (feed .idle s)

/-- FEED HIGH (43_public_api.md R80). -/
def execFeedHigh (s : State) : Host.Outcome State Fault Refusal := .next (feed .high s)

/-- FEED LOW (43_public_api.md R80). -/
def execFeedLow (s : State) : Host.Outcome State Fault Refusal := .next (feed .low s)

/-- RESET: `last_sample <- IDLE`, `bit_cursor <- 0`, and nothing else (43_public_api.md R81). -/
def execReset (s : State) : Host.Outcome State Fault Refusal :=
  .next (setBitCursor 0 (setLastSample .idle s))

/-- COMPLETE: return the occupied count; no state is written (43_public_api.md R82). -/
def execComplete (s : State) : Host.Outcome State Fault Refusal :=
  .next (deliver (.count (occupiedCount s)) s)

/-- GET_FRAME: return what `pop()` gives (43_public_api.md R83). -/
def execGetFrame (s : State) : Host.Outcome State Fault Refusal :=
  let popped := pop s
  .next (deliver (.frame popped.1) popped.2)

end Sys2Proof.Machine
end

