-- ==== Sys2Proof/Machine/Reserved.lean ====
section
/-! DEFINITION. The meanings of the ten reserved words: each is refused by name, with no step (30_encoding.md R46,
60_exceptions.md R94; log 7).
-/

namespace Sys2Proof.Machine

/-- A reserved word "spells no command. A model must refuse it, giving it no meaning and no step" (30_encoding.md R46). -/
def refuseReserved (w : Word) : Host.Outcome State Fault Refusal := .refused (.reservedWord w)

/-- Reserved word `0x3` (30_encoding.md R46). -/
def execReserved3 (_s : State) : Host.Outcome State Fault Refusal := refuseReserved 0x3#4

/-- Reserved word `0x5` (30_encoding.md R46). -/
def execReserved5 (_s : State) : Host.Outcome State Fault Refusal := refuseReserved 0x5#4

/-- Reserved word `0x6` (30_encoding.md R46). -/
def execReserved6 (_s : State) : Host.Outcome State Fault Refusal := refuseReserved 0x6#4

/-- Reserved word `0x7` (30_encoding.md R46). -/
def execReserved7 (_s : State) : Host.Outcome State Fault Refusal := refuseReserved 0x7#4

/-- Reserved word `0x9` (30_encoding.md R46). -/
def execReserved9 (_s : State) : Host.Outcome State Fault Refusal := refuseReserved 0x9#4

/-- Reserved word `0xA` (30_encoding.md R46). -/
def execReservedA (_s : State) : Host.Outcome State Fault Refusal := refuseReserved 0xA#4

/-- Reserved word `0xB` (30_encoding.md R46). -/
def execReservedB (_s : State) : Host.Outcome State Fault Refusal := refuseReserved 0xB#4

/-- Reserved word `0xD` (30_encoding.md R46). -/
def execReservedD (_s : State) : Host.Outcome State Fault Refusal := refuseReserved 0xD#4

/-- Reserved word `0xE` (30_encoding.md R46). -/
def execReservedE (_s : State) : Host.Outcome State Fault Refusal := refuseReserved 0xE#4

/-- Reserved word `0xF` (30_encoding.md R46). -/
def execReservedF (_s : State) : Host.Outcome State Fault Refusal := refuseReserved 0xF#4

end Sys2Proof.Machine
end

