-- ==== Sys2Proof/Machine/Dispatch.lean ====
section
/-! DEFINITION. One arm per instruction (43_public_api.md R85). -/

namespace Sys2Proof.Machine

def exec (i : Instr) (s : State) : Host.Outcome State Fault Refusal :=
  match i with
  | .feedIdle => Sys2Proof.Machine.execFeedIdle s
  | .feedHigh => Sys2Proof.Machine.execFeedHigh s
  | .feedLow => Sys2Proof.Machine.execFeedLow s
  | .reset => Sys2Proof.Machine.execReset s
  | .complete => Sys2Proof.Machine.execComplete s
  | .getFrame => Sys2Proof.Machine.execGetFrame s
  | .reserved3 => Sys2Proof.Machine.execReserved3 s
  | .reserved5 => Sys2Proof.Machine.execReserved5 s
  | .reserved6 => Sys2Proof.Machine.execReserved6 s
  | .reserved7 => Sys2Proof.Machine.execReserved7 s
  | .reserved9 => Sys2Proof.Machine.execReserved9 s
  | .reservedA => Sys2Proof.Machine.execReservedA s
  | .reservedB => Sys2Proof.Machine.execReservedB s
  | .reservedD => Sys2Proof.Machine.execReservedD s
  | .reservedE => Sys2Proof.Machine.execReservedE s
  | .reservedF => Sys2Proof.Machine.execReservedF s

end Sys2Proof.Machine
end

