-- ==== Sys2Proof/Machine/Fetch.lean ====
section
/-! DEFINITION. How the block comes to its next command: it has no program counter and fetches nothing from memory
(10_state.md R24, 20_memory.md R40); the next command is the one its callers issue next (43_public_api.md R88).
-/

namespace Sys2Proof.Machine

/-- Take the next request in the callers' total order (20_memory.md R36), with the state in which its command runs;
`none` when no command is pending. -/
def takeRequest (s : State) : Option (Request × State) :=
  match s.pending with
  | [] => none
  | r :: rest => some (r, { s with pending := rest, caller := r.agent })

/-- Issue a command ahead of every pending one, by the agent served last, so that nothing else changes (log 15). -/
def issueFirst (w : Word) (s : State) : State :=
  { s with pending := ⟨s.caller, w⟩ :: s.pending }

end Sys2Proof.Machine
end

