-- ==== Sys2Proof/Machine/Step.lean ====
section
/-! DEFINITION. One step: take the next command, decode its word, execute it (00_scope.md R11, 43_public_api.md R85).
-/

namespace Sys2Proof.Machine

/-- One atomic step. With no command pending nothing changes: "the block does nothing between commands" (00_scope.md R11,
92_eei_decisions.md D23; DEDUCED, log 6). -/
def step (s : State) : Host.Outcome State Fault Refusal :=
  match takeRequest s with
  | none => .next s
  | some (r, s') => exec (decodeWord r.word) s'

/-- The state with a table word's command issued next (the host's fixed name; log 1, log 15). A number that is no command
word issues nothing. -/
def State.withFetchWord (s : State) (nbits w : Nat) : State :=
  match tableCommand nbits w with
  | none => s
  | some c => issueFirst c s

end Sys2Proof.Machine
end

