-- ==== Sys2Proof/Machine/Assembler.lean ====
section
/-! DEFINITION. The assembler's side of the spec: the hex text of a command stream (30_encoding.md R42), the
pseudo-instructions and the text of a command (R49). The machine never sees any of it: text and pseudo-instructions turn
into command words first (92_eei_decisions.md D18).
-/

namespace Sys2Proof.Machine

/-- `SENDBIT b`: enter the level of the bit, then leave it through IDLE (30_encoding.md R49). -/
def sendBit (b : Bit) : List Instr := [if b then .feedHigh else .feedLow, .feedIdle]

/-- `SENDBIT` for each bit of a list, in order. -/
def sendBits (bs : List Bit) : List Instr := bs.flatMap sendBit

/-- The bits of a byte, least significant first (30_encoding.md R49, 20_memory.md R29). -/
def byteBits (v : Byte) : List Bit := [v[0], v[1], v[2], v[3], v[4], v[5], v[6], v[7]]

/-- `SENDBYTE v` (30_encoding.md R49). -/
def sendByte (v : Byte) : List Instr := sendBits (byteBits v)

/-- `SENDFRAME b0 … b6`: the bytes in field order (30_encoding.md R49). -/
def sendFrame (b0 b1 b2 b3 b4 b5 b6 : Byte) : List Instr :=
  sendByte b0 ++ sendByte b1 ++ sendByte b2 ++ sendByte b3 ++ sendByte b4 ++ sendByte b5 ++ sendByte b6

/-- A lower-case letter for an upper-case one: the text is case-insensitive (30_encoding.md R49). -/
def lowerCase (c : Char) : Char := if 65 ≤ c.toNat ∧ c.toNat ≤ 90 then Char.ofNat (c.toNat + 32) else c

/-- The digit that writes a command word: the word's number `cmd[3:0]` as one hex digit (30_encoding.md R42). -/
def hexDigit (w : Word) : Char := Char.ofNat (w.toNat + if w.toNat < 10 then '0'.toNat else 'A'.toNat - 10)

/-- The command word a digit writes, either case; `none` for any other character (30_encoding.md R42). -/
def wordOfDigit (digit : Char) : Option Word :=
  let code := (lowerCase digit).toNat
  if '0'.toNat ≤ code ∧ code < '0'.toNat + 10 then some (BitVec.ofNat 4 (code - '0'.toNat))
  else if 'a'.toNat ≤ code ∧ code < 'a'.toNat + 6 then some (BitVec.ofNat 4 (code - 'a'.toNat + 10))
  else none

/-- The hex text of a command stream: one digit per command word, first command leftmost (30_encoding.md R42). -/
def hexOfStream (ws : List Word) : List Char := ws.map hexDigit

/-- The command stream of a hex text; `none` if a character is no hex digit (30_encoding.md R42). -/
def streamOfHex : List Char → Option (List Word)
  | [] => some []
  | c :: cs =>
    match wordOfDigit c, streamOfHex cs with
    | some w, some ws => some (w :: ws)
    | _, _ => none

/-- A line without its comment: `;` starts one (30_encoding.md R49). -/
def stripComment : List Char → List Char
  | [] => []
  | c :: cs => if c = ';' then [] else c :: stripComment cs

/-- Blanks between the tokens of a line. -/
def isBlank (c : Char) : Bool := c == ' ' || c == '\t' || c == '\r'

/-- The tokens of a line, in lower case; `word` holds the letters of the token being read, last letter first. -/
def tokens (word : List Char) : List Char → List (List Char)
  | [] => if word.isEmpty then [] else [word.reverse]
  | c :: cs =>
    if isBlank c then
      (if word.isEmpty then tokens [] cs else word.reverse :: tokens [] cs)
    else tokens (lowerCase c :: word) cs

/-- A level's name. -/
def levelName : List Char → Option Level
  | ['i', 'd', 'l', 'e'] => some .idle
  | ['h', 'i', 'g', 'h'] => some .high
  | ['l', 'o', 'w'] => some .low
  | _ => none

/-- A byte in one or two hex digits, the more significant first, with or without `0x`. DESIGN CHOICE, log 17. -/
def byteText : List Char → Option Byte
  | ['0', 'x', low] | [low] => (wordOfDigit low).map fun l => 0#4 ++ l
  | ['0', 'x', high, low] | [high, low] => (wordOfDigit high).bind fun h => (wordOfDigit low).map fun l => h ++ l
  | _ => none

/-- The bytes of SENDFRAME's seven operands. -/
def bytesText : List (List Char) → Option (List Byte)
  | [] => some []
  | t :: ts =>
    match byteText t, bytesText ts with
    | some b, some bs => some (b :: bs)
    | _, _ => none

/-- The commands of a line's tokens: a command, an alias, or the expansion of a pseudo-instruction (30_encoding.md R49).
A line without tokens has no command. -/
def commandsOfTokens : List (List Char) → Option (List Instr)
  | [] => some []
  | [['f', 'e', 'e', 'd'], l] => (levelName l).map fun x => [feedOf x]
  | [['r', 'e', 's', 'e', 't']] => some [.reset]
  | [['c', 'o', 'm', 'p', 'l', 'e', 't', 'e']] => some [.complete]
  | [['g', 'e', 't', '_', 'f', 'r', 'a', 'm', 'e']] => some [.getFrame]
  | [['p', 'o', 'p']] => some [.getFrame]
  | [['s', 'e', 'n', 'd', 'b', 'i', 't'], ['0']] => some (sendBit false)
  | [['s', 'e', 'n', 'd', 'b', 'i', 't'], ['1']] => some (sendBit true)
  | [['s', 'e', 'n', 'd', 'b', 'y', 't', 'e'], v] => (byteText v).map sendByte
  | ['s', 'e', 'n', 'd', 'f', 'r', 'a', 'm', 'e'] :: vs =>
    match bytesText vs with
    | some [b0, b1, b2, b3, b4, b5, b6] => some (sendFrame b0 b1 b2 b3 b4 b5 b6)
    | _ => none
  | _ => none

/-- The commands of one line of assembler text (30_encoding.md R49). -/
def assembleLine (line : List Char) : Option (List Instr) :=
  commandsOfTokens (tokens [] (stripComment line))

/-- The commands of an assembler text given line by line, "one command per line" (30_encoding.md R49). -/
def assembleLines : List (List Char) → Option (List Instr)
  | [] => some []
  | l :: ls =>
    match assembleLine l, assembleLines ls with
    | some is, some rest => some (is ++ rest)
    | _, _ => none

end Sys2Proof.Machine
end

