-- ==== Sys2Proof/Safety.lean ====
section
/-! DEFINITION. The terms claims use: the invariant of every state, unread frames, overflow, runs of commands, and the
changes of a state that no command can notice.
-/

namespace Sys2Proof.Machine

/-- What holds between any two commands beyond the registers' own ranges (10_state.md R17, R25): the cursor stays below 55
under REFERENCE and below 56 under CORRECTED. -/
abbrev State.Inv (s : State) : Prop := s.bitCursor.val < s.rolloverMode.bitsPerCommit

/-- The unread frames, oldest first (10_state.md R22). -/
def unread (s : State) : List Frame :=
  (List.range (occupiedCount s).val).map fun k => readSlot (Fin.ofNat 4 (s.readIndex.val + k)) s

/-- A FEED of `l` commits the frame in progress (43_public_api.md R80 (d)). -/
def commits (l : Level) (s : State) : Bool :=
  (emitted s.lastSample l).isSome && s.bitCursor.val + 1 == s.rolloverMode.bitsPerCommit

/-- A FEED of `l` loses the unread frames: it commits while three are unread (42_ring_buffer.md R74,
70_reset_and_hazards.md R112). -/
def overflows (l : Level) (s : State) : Bool := commits l s && (occupiedCount s).val == 3

/-- The bits a sequence of samples emits after the sample `prev` (40_transition_decoder.md R55). -/
def emittedBits (prev : Level) : List Level → List Bit
  | [] => []
  | l :: ls => (emitted prev l).toList ++ emittedBits l ls

/-- The commands of a list, executed one after the other. -/
def runInstrs : List Instr → State → Host.Outcome State Fault Refusal
  | [], s => .next s
  | i :: is, s =>
    match exec i s with
    | .next t => runInstrs is t
    | .fault r => .fault r
    | .refused r => .refused r

/-- A sequence of samples, fed one after the other. -/
def runSamples (ls : List Level) (s : State) : Host.Outcome State Fault Refusal := runInstrs (ls.map feedOf) s

/-- The bits of a list, assembled one after the other (41_bit_assembler.md R60). -/
def assembleAll (bs : List Bit) (s : State) : State := bs.foldl (fun t b => assemble b t) s

/-- The outcome with its next state changed by `f`. -/
def mapNext (f : State → State) : Host.Outcome State Fault Refusal → Host.Outcome State Fault Refusal
  | .next s => .next (f s)
  | .fault r => .fault r
  | .refused r => .refused r

/-- The state with both indices advanced by `k` and the slots moved along: no absolute index is observable
(92_eei_decisions.md D8). -/
def rotate (k : Fin 4) (s : State) : State :=
  { s with
    writeIndex := s.writeIndex + k
    readIndex := s.readIndex + k
    slots := Vector.ofFn fun i => s.slots[i - k] }

/-- The state with every agent's name replaced by the producer's (92_eei_decisions.md D11). -/
def forgetAgents (s : State) : State :=
  { s with
    pending := s.pending.map fun r => ⟨.producer, r.word⟩
    caller := .producer
    results := s.results.map fun d => ⟨.producer, d.result⟩ }

end Sys2Proof.Machine
end

