-- ==== Sys2Proof/Certificates/Slice0/Obligations.lean ====
section
/-! DEFINITION. The statements for the provers. Each docstring names the rules of spec/ it rests on. Where a rule is marked
in the spec as derived or as the spec's own decision, the docstring says so.
-/

open Sys2Proof Sys2Proof.Machine

/-! ### Encoding -/

/-- The six command words, bit by bit from 30_encoding.md R42 to R44: `op = cmd[3:2]`, `arg = cmd[1:0]`. The word values are
the spec's own decisions D2 and D3. -/
def Obligations.CommandWordsDecode : Prop :=
  decodeWord 0b0000#4 = .feedIdle ∧ decodeWord 0b0001#4 = .feedHigh ∧ decodeWord 0b0010#4 = .feedLow ∧
  decodeWord 0b0100#4 = .reset ∧ decodeWord 0b1000#4 = .complete ∧ decodeWord 0b1100#4 = .getFrame ∧
  (∀ w : Word, (decodeWord w).wellFormed = true ↔
    (opField w = 0b00#2 ∧ argField w ≠ 0b11#2) ∨ (opField w ≠ 0b00#2 ∧ argField w = 0b00#2)) ∧
  (∀ (w : Word) (l : Level),
    decodeWord w = feedOf l ↔ opField w = 0b00#2 ∧ levelOfCode (argField w) = some l) ∧
  (∀ l : Level, levelOfCode (levelCode l) = some l) ∧
  levelCode .idle = 0b00#2 ∧ levelCode .high = 0b01#2 ∧ levelCode .low = 0b10#2 ∧ levelOfCode 0b11#2 = none

/-- 30_encoding.md R46, which is the spec's own decision D4 (log 7, where the ten constructors are the model's choice): the
ten reserved words are refused, in every state, with no step, both as instructions and as the next request of a state; no
other word is. That a word comes to the block as the head of a list of pending requests is the model's choice, log 1. -/
def Obligations.ReservedWordsAreRefused : Prop :=
  (∀ s : State,
    exec .reserved3 s = .refused (.reservedWord 0x3#4) ∧ exec .reserved5 s = .refused (.reservedWord 0x5#4) ∧
    exec .reserved6 s = .refused (.reservedWord 0x6#4) ∧ exec .reserved7 s = .refused (.reservedWord 0x7#4) ∧
    exec .reserved9 s = .refused (.reservedWord 0x9#4) ∧ exec .reservedA s = .refused (.reservedWord 0xA#4) ∧
    exec .reservedB s = .refused (.reservedWord 0xB#4) ∧ exec .reservedD s = .refused (.reservedWord 0xD#4) ∧
    exec .reservedE s = .refused (.reservedWord 0xE#4) ∧ exec .reservedF s = .refused (.reservedWord 0xF#4)) ∧
  (∀ (s : State) (r : Request) (rest : List Request), s.pending = r :: rest →
    ((∃ x, step s = .refused x) ↔
      r.word ∈ [0x3#4, 0x5#4, 0x6#4, 0x7#4, 0x9#4, 0xA#4, 0xB#4, 0xD#4, 0xE#4, 0xF#4]))

/-- A command stream written as hex text, one digit per command word, first command leftmost, reads back as the same
instructions (30_encoding.md R42, R44, R46, R47; the spec's decision D2). It holds for reserved words as well. -/
def Obligations.StreamTextRoundTrip : Prop :=
  ∀ is : List Instr, (streamOfHex (hexOfStream (is.map encode))).map (List.map decodeWord) = some is

/-- Every character of a hex text is one command word, and the text of the stream read is the text, in capitals: no
digit is dropped and none is made up (30_encoding.md R42, the spec's decision D2). -/
def Obligations.StreamTextReadsEveryDigit : Prop :=
  ∀ (text : List Char) (ws : List Word), streamOfHex text = some ws →
    ws.length = text.length ∧ hexOfStream ws = text.map fun ch =>
      if 97 ≤ ch.toNat ∧ ch.toNat ≤ 102 then Char.ofNat (ch.toNat - 32) else ch

/-- A step takes the next command in the callers' order and executes it (00_scope.md R11, 43_public_api.md R85). How the
command comes to the block (the list of pending requests and the caller's name) is the model's own, log 1 and log 2; that
a step with no command changes nothing is deduced from decision D23, log 6. -/
def Obligations.StepRunsTheNextCommand : Prop :=
  (∀ s : State, s.pending = [] → step s = .next s) ∧
  (∀ (s : State) (r : Request) (rest : List Request) (i : Instr), s.pending = r :: rest → decodeWord r.word = i →
    step s = exec i { s with pending := rest, caller := r.agent }) ∧
  (∀ (s : State) (nbits w : Nat) (i : Instr), decodeTableWord nbits w = some i →
    step (s.withFetchWord nbits w) = exec i s)

/-! ### Power-on and RESET -/

/-- 70_reset_and_hazards.md R106 (the zeros are the spec's decision D8, the slots and the mode its open parameters D9 and
D5): the power-on state of every register. -/
def Obligations.PowerOnState : Prop :=
  State.reset.lastSample = .idle ∧ State.reset.bitCursor = 0 ∧ State.reset.writeIndex = 0 ∧
  State.reset.readIndex = 0 ∧ State.reset.slots = Config.slotInit ∧
  State.reset.rolloverMode = Config.rolloverMode ∧ (occupiedCount State.reset).val = 0

/-- 10_state.md R16: `last_sample` is IDLE at power-on and after RESET. -/
def Obligations.LastSampleResetValues : Prop :=
  State.reset.lastSample = .idle ∧
  (∀ s : State, ∃ t, exec .reset s = .next t ∧ t.lastSample = .idle)

/-- 43_public_api.md R81 and 70_reset_and_hazards.md R107: RESET completes in every state, clears `last_sample` and
`bit_cursor`, and leaves every other field as it was. A second RESET, and a RESET at power-on (R107), change nothing. The
count is what it was before (R108). R107 and R108 are marked derived in the spec. -/
def Obligations.ResetClearsDecoderStateOnly : Prop :=
  decodeWord 0x4#4 = .reset ∧
  (∀ s : State, exec .reset s = .next { s with lastSample := .idle, bitCursor := 0 }) ∧
  (∀ s t : State, exec .reset s = .next t → exec .reset t = .next t ∧ occupiedCount t = occupiedCount s) ∧
  exec .reset State.reset = .next State.reset

/-! ### FEED -/

/-- 40_transition_decoder.md R50, R51, R52: the emitted bit is decided by the level being left, `last_sample` becomes the
sample on every call, nothing else is written, and FEED of the level already held changes nothing at all. -/
def Obligations.TransitionDecoderRules : Prop :=
  (∀ (l : Level) (s : State),
    (decodeSample l s).2 = { s with lastSample := l } ∧
    (l = s.lastSample → (decodeSample l s).1 = none) ∧
    (l ≠ s.lastSample → s.lastSample = .high → (decodeSample l s).1 = some true) ∧
    (l ≠ s.lastSample → s.lastSample = .low → (decodeSample l s).1 = some false) ∧
    (l ≠ s.lastSample → s.lastSample = .idle → (decodeSample l s).1 = none)) ∧
  (∀ (l : Level) (s : State), ∃ t, exec (feedOf l) s = .next t ∧ t.lastSample = l) ∧
  (∀ s : State, exec (feedOf s.lastSample) s = .next s)

/-- 10_state.md R15: every FEED writes the level fed to `last_sample`, RESET writes IDLE, and COMPLETE and GET_FRAME
neither read nor write it. -/
def Obligations.LastSampleReadersAndWriters : Prop :=
  (∀ s : State, (∃ t, exec .feedIdle s = .next t ∧ t.lastSample = .idle) ∧
    (∃ t, exec .feedHigh s = .next t ∧ t.lastSample = .high) ∧
    (∃ t, exec .feedLow s = .next t ∧ t.lastSample = .low) ∧
    (∃ t, exec .reset s = .next t ∧ t.lastSample = .idle)) ∧
  (∀ (s : State) (l : Level),
    exec .complete { s with lastSample := l } = mapNext (fun t => { t with lastSample := l }) (exec .complete s) ∧
    exec .getFrame { s with lastSample := l } = mapNext (fun t => { t with lastSample := l }) (exec .getFrame s)) ∧
  (∀ s : State, (∃ t, exec .complete s = .next t ∧ t.lastSample = s.lastSample) ∧
    (∃ t, exec .getFrame s = .next t ∧ t.lastSample = s.lastSample))

/-- 41_bit_assembler.md R60: a FEED that emits bit `b` writes it at `slots[write_index][bit_cursor]`; if the candidate
cursor `(bit_cursor + 1) mod 56` is 55 (REFERENCE) or 0 (CORRECTED) it commits (`write_index` plus one modulo 4, cursor 0),
otherwise the cursor takes the candidate. That the write replaces the bit is the spec's decision D6 (log 8), and that the
REFERENCE commit belongs to the FEED that writes position 54 its decision D7 (log 9). It holds in every state; in the one
no run reaches, a cursor of 55 under REFERENCE, it says what the pseudocode gives there, the bit at position 55, the cursor
at 0 and no commit (DEDUCED, log 11). -/
def Obligations.EmittedBitIsAssembled : Prop :=
  ∀ (l : Level) (s : State) (b : Bit), emitted s.lastSample l = some b →
    let full := match s.rolloverMode with
      | .reference => (s.bitCursor.val + 1) % 56 = 55
      | .corrected => (s.bitCursor.val + 1) % 56 = 0
    ∃ t, exec (feedOf l) s = .next t ∧
      slotBit s.writeIndex s.bitCursor t = b ∧
      (∀ i p, ¬(i = s.writeIndex ∧ p = s.bitCursor) → slotBit i p t = slotBit i p s) ∧
      (full → t.writeIndex.val = (s.writeIndex.val + 1) % 4 ∧ t.bitCursor.val = 0) ∧
      (¬full → t.writeIndex = s.writeIndex ∧ t.bitCursor.val = (s.bitCursor.val + 1) % 56) ∧
      t.lastSample = l ∧ t.readIndex = s.readIndex ∧ t.rolloverMode = s.rolloverMode ∧
      t.pending = s.pending ∧ t.caller = s.caller ∧ t.results = s.results

/-- The table of 43_public_api.md on FEED's combined effect (R86, marked derived from R50 to R52 and R60), every row, with
`T` 55 under REFERENCE and 56 under CORRECTED, and the frame: everything FEED does not name is unchanged, every bit of
every slot but the one written included. (A cursor of 55 under REFERENCE, which no run reaches, has no row in the table;
`EmittedBitIsAssembled` says what happens there.) -/
def Obligations.FeedCombinedEffect : Prop :=
  ∀ (l : Level) (s : State),
    let T := s.rolloverMode.bitsPerCommit
    let emits (b : Bit) : Prop := if b then s.lastSample = .high ∧ l ≠ .high else s.lastSample = .low ∧ l ≠ .low
    ∃ t, exec (feedOf l) s = .next t ∧
      t.lastSample = l ∧ t.readIndex = s.readIndex ∧ t.rolloverMode = s.rolloverMode ∧
      t.pending = s.pending ∧ t.caller = s.caller ∧ t.results = s.results ∧
      (∀ i p, ¬(i = s.writeIndex ∧ p = s.bitCursor) → slotBit i p t = slotBit i p s) ∧
      (l = s.lastSample ∨ s.lastSample = .idle →
        t.slots = s.slots ∧ t.bitCursor = s.bitCursor ∧ t.writeIndex = s.writeIndex) ∧
      (∀ b, emits b → slotBit s.writeIndex s.bitCursor t = b ∧
        (s.bitCursor.val + 1 < T → t.bitCursor.val = s.bitCursor.val + 1 ∧ t.writeIndex = s.writeIndex) ∧
        (s.bitCursor.val + 1 = T → t.bitCursor = 0 ∧ t.writeIndex.val = (s.writeIndex.val + 1) % 4))

/-- FEED never reads `read_index` (43_public_api.md R80 (f)): it does the same whether or not the consumer keeps up. -/
def Obligations.FeedIgnoresTheConsumer : Prop :=
  ∀ (l : Level) (s : State) (r : Fin 4),
    exec (feedOf l) { s with readIndex := r } = mapNext (fun t => { t with readIndex := r }) (exec (feedOf l) s)

/-! ### COMPLETE and GET_FRAME -/

/-- 42_ring_buffer.md R71 and 43_public_api.md R82: COMPLETE (word `0x8`, the spec's decision D2) returns `(4 + write_index - read_index) mod 4`,
a 2-bit number (the spec's decision D13, 30_encoding.md R48), and writes nothing. It returns 0 with equal indices and after power-on, and after a RESET what it returned
before. Where R82 writes nothing, the model appends the result to its record of results (DESIGN CHOICE, log 2). -/
def Obligations.CompleteReturnsTheCount : Prop :=
  decodeWord 0x8#4 = .complete ∧
  (∀ s : State, ∃ n : Fin 4, n.val = (4 + s.writeIndex.val - s.readIndex.val) % 4 ∧
    exec .complete s = .next { s with results := s.results ++ [⟨s.caller, .count n⟩] } ∧
    resultCount (.count n) = some (BitVec.ofNat 2 n.val)) ∧
  (∀ s : State, s.writeIndex = s.readIndex →
    exec .complete s = .next { s with results := s.results ++ [⟨s.caller, .count 0⟩] }) ∧
  (∃ t, exec .complete State.reset = .next t ∧ t.results = [⟨State.reset.caller, .count 0⟩]) ∧
  (∀ s : State, ∃ t u v, exec .complete s = .next t ∧ exec .reset s = .next u ∧ exec .complete u = .next v ∧
    t.results = v.results)

/-- 42_ring_buffer.md R72 and R73 for the pop, 43_public_api.md R83 and 30_encoding.md R44 for its word `0xC` (the spec's
decision D2): a GET_FRAME with a frame unread returns all 56 bits of `slots[read_index]`, advances
`read_index` by one modulo 4 and writes nothing else; with none unread it reports empty and leaves the state unchanged. The result stands in the model's record of results
(DESIGN CHOICE, log 2). -/
def Obligations.GetFramePops : Prop :=
  decodeWord 0xC#4 = .getFrame ∧
  (∀ s : State, 0 < (4 + s.writeIndex.val - s.readIndex.val) % 4 →
    ∃ r : Fin 4, r.val = (s.readIndex.val + 1) % 4 ∧
      exec .getFrame s = .next { s with
        readIndex := r, results := s.results ++ [⟨s.caller, .frame (some s.slots[s.readIndex])⟩] }) ∧
  (∀ s : State, (4 + s.writeIndex.val - s.readIndex.val) % 4 = 0 →
    exec .getFrame s = .next { s with results := s.results ++ [⟨s.caller, .frame none⟩] })

/-- The result of GET_FRAME as a caller sees it: every GET_FRAME completes and gives its caller one result; on an empty
buffer `ok` is 0, there is no frame and no register or slot changes (60_exceptions.md R93), otherwise `ok` is 1 and there is
a frame (43_public_api.md R83). The pair of `ok` and a frame that is absent when `ok` is 0 is the spec's decision D12
(30_encoding.md R48); that the result is one entry of a record of results is the model's choice, log 2. -/
def Obligations.EmptyReadIsAResult : Prop :=
  ∀ s : State, ∃ t r, exec .getFrame s = .next t ∧ t.results = s.results ++ [⟨s.caller, r⟩] ∧
    (s.writeIndex = s.readIndex → resultOk r = some false ∧ resultFrame r = none ∧ t = { s with results := t.results }) ∧
    (s.writeIndex ≠ s.readIndex → resultOk r = some true ∧ (resultFrame r).isSome = true)

/-- The frame in progress is never popped: a GET_FRAME that returns a frame read a slot other than the write slot (the rule
R76 of 42_ring_buffer.md, which the spec derives from R71 and R72). -/
def Obligations.FrameInProgressIsNeverPopped : Prop :=
  ∀ (s t : State) (f : Frame), exec .getFrame s = .next t →
    t.results = s.results ++ [⟨s.caller, .frame (some f)⟩] →
      s.readIndex ≠ s.writeIndex ∧ f = readSlot s.readIndex s ∧ t.slots = s.slots

/-! ### Rules of the whole machine -/

/-- 43_public_api.md R84: the four commands (FEED with its three levels) are all there are, each is accepted in every
state, and no sequence of commands leads to a state that refuses one. -/
def Obligations.EveryCommandIsAlwaysAccepted : Prop :=
  (∀ i : Instr, i.wellFormed = true ↔ i ∈ [.feedIdle, .feedHigh, .feedLow, .reset, .complete, .getFrame]) ∧
  (∀ (i : Instr) (s : State), i.wellFormed = true → ∃ t, exec i s = .next t) ∧
  (∀ (is : List Instr) (s : State), (∀ i ∈ is, i.wellFormed = true) → ∃ t, runInstrs is s = .next t)

/-- Every stream of commands, from both agents in any order, runs to its end (60_exceptions.md R90, 43_public_api.md R84;
the order is that of 20_memory.md R36, decision D10): as many steps as there are requests take them all, and each request
of COMPLETE and GET_FRAME gives one result to the agent that made it, in order. -/
def Obligations.EveryStreamRunsToItsEnd : Prop :=
  ∀ s : State, (∀ r ∈ s.pending, (decodeWord r.word).wellFormed = true) →
    ∃ t : State, Host.Core.run Sys2Proof.core s.pending.length s = .next t ∧ t.pending = [] ∧
      t.results.map Delivery.agent = s.results.map Delivery.agent ++
        (s.pending.filter fun r => decodeWord r.word = .complete ∨ decodeWord r.word = .getFrame).map Request.agent

/-- 42_ring_buffer.md R68: 4 slots; each index is in [0, 4) and a step leaves it or adds one modulo 4; RESET leaves both. -/
def Obligations.IndicesOnlyAdvance : Prop :=
  (∀ s : State, s.slots.toList.length = 4 ∧ s.writeIndex.val < 4 ∧ s.readIndex.val < 4) ∧
  (∀ s t : State, step s = .next t →
    (t.writeIndex = s.writeIndex ∨ t.writeIndex.val = (s.writeIndex.val + 1) % 4) ∧
    (t.readIndex = s.readIndex ∨ t.readIndex.val = (s.readIndex.val + 1) % 4)) ∧
  (∀ s t : State, exec .reset s = .next t → t.writeIndex = s.writeIndex ∧ t.readIndex = s.readIndex)

/-- Single producer, single consumer (42_ring_buffer.md R69, 10_state.md R18, R19): a step that changes `write_index` is a
FEED that commits, and one that changes `read_index` is a GET_FRAME with a frame unread. -/
def Obligations.WhoWritesTheIndices : Prop :=
  ∀ s t : State, step s = .next t →
    (t.writeIndex ≠ s.writeIndex → ∃ l r rest, s.pending = r :: rest ∧ decodeWord r.word = feedOf l ∧
      commits l s = true) ∧
    (t.readIndex ≠ s.readIndex → ∃ r rest, s.pending = r :: rest ∧ decodeWord r.word = .getFrame ∧
      s.writeIndex ≠ s.readIndex)

/-- Slots change one bit at a time (10_state.md R20, 41_bit_assembler.md R57, R58; that a write replaces the bit is the
spec's decision D6, log 8): whenever any bit of any slot differs after a step, the step was a FEED that emitted a bit, the
bit is the one at the write slot and the cursor, and it holds what was emitted. -/
def Obligations.SlotsChangeOneBitAtATime : Prop :=
  ∀ (s t : State) (i : Fin 4) (p : Fin 56), step s = .next t → slotBit i p t ≠ slotBit i p s →
    i = s.writeIndex ∧ p = s.bitCursor ∧
    ∃ l r rest, s.pending = r :: rest ∧ decodeWord r.word = feedOf l ∧
      emitted s.lastSample l = some (slotBit i p t)

/-- The cursor stays in its reachable range (10_state.md R17 and R25, which the spec derives from R60 and R63): from every
state that meets it, a step gives a state that meets it, and the mode is unchanged. -/
def Obligations.StepKeepsTheInvariant : Prop :=
  ∀ s t : State, s.Inv → step s = .next t → t.Inv ∧ t.rolloverMode = s.rolloverMode

/-- The power-on state meets the invariant, whichever mode it was constructed with (10_state.md R25, marked derived). -/
def Obligations.PowerOnMeetsTheInvariant : Prop := State.reset.Inv

/-- Under REFERENCE no step ever writes position 55 of a slot (the rule R23 of 10_state.md, which the spec derives from the
rollover of 41_bit_assembler.md): it keeps its power-on value for the life of the instance. -/
def Obligations.ReferenceNeverWritesPosition55 : Prop :=
  ∀ (n : Nat) (s t : State) (i : Fin 4), s.Inv → s.rolloverMode = .reference →
    Host.Core.run Sys2Proof.core n s = .next t → slotBit i 55 t = slotBit i 55 s

/-- Nothing the block does depends on the model's record of its callers (the model's own fields `pending`, `caller` and
`results`, log 1 and log 2): putting other results in front, other requests in the list and another agent as the caller
changes nothing but the agent named in a result the command gives. Requests and results already there are kept, and a
command only appends. -/
def Obligations.CallersRecordIsNeverRead : Prop :=
  ∀ (i : Instr) (s : State) (given : List Delivery) (later : List Request) (who : Agent),
    exec i { s with results := given ++ s.results, pending := later, caller := who } =
      mapNext (fun t => { t with
        results := given ++ s.results ++ (t.results.drop s.results.length).map fun d => ⟨who, d.result⟩
        pending := later
        caller := who }) (exec i s)

/-- Which agent issues a command does not change its effect (60_exceptions.md R98, R101, decisions D11 and D16): a step
commutes with forgetting the agents' names. -/
def Obligations.AgentsNamesDoNotMatter : Prop :=
  ∀ s : State, step (forgetAgents s) = mapNext forgetAgents (step s)

/-- No absolute index is observable (92_eei_decisions.md D8): moving both indices and all slots round the ring together
commutes with a step, so every result, now and later, is the same. -/
def Obligations.AbsoluteIndicesAreUnobservable : Prop :=
  ∀ (k : Fin 4) (s : State),
    step (rotate k s) = mapNext (rotate k) (step s) ∧ (rotate k s).results = s.results ∧
      occupiedCount (rotate k s) = occupiedCount s ∧ unread (rotate k s) = unread s

/-- A producer's and a consumer's command asked for together may take effect in either order and the order can show (the
example of 60_exceptions.md R97, decision D10): from a count of 0, a FEED that commits before a GET_FRAME gives the caller
the frame just committed, and after it gives none. -/
def Obligations.OrderOfAgentsCanShow : Prop :=
  ∀ (l : Level) (s : State), commits l s = true → s.writeIndex = s.readIndex →
    (∃ t, runInstrs [feedOf l, .getFrame] s = .next t ∧
      t.results = s.results ++ [⟨s.caller, .frame (some (readSlot s.writeIndex t))⟩] ∧
      t.writeIndex = t.readIndex) ∧
    (∃ t, runInstrs [.getFrame, feedOf l] s = .next t ∧
      t.results = s.results ++ [⟨s.caller, .frame none⟩] ∧ t.writeIndex ≠ t.readIndex)

/-! ### The stream of bits -/

/-- The bit-count law, "the number of emitted bits equals the count of positions where the sample differs from the previous
sample AND the previous sample was not idle" (the rule R55 of 40_transition_decoder.md, which the spec derives from R50 and
R51), together with what the FEEDs do: they assemble exactly the emitted bits, in order, and `last_sample` ends as the last
sample. -/
def Obligations.BitCountLaw : Prop :=
  ∀ (ls : List Level) (s : State),
    runSamples ls s = .next { assembleAll (emittedBits s.lastSample ls) s with
      lastSample := (s.lastSample :: ls).getLast (by simp) } ∧
    (emittedBits s.lastSample ls).length =
      (((s.lastSample :: ls).zip ls).filter fun pair => pair.2 ≠ pair.1 ∧ pair.1 ≠ .idle).length

/-- Where every bit goes (41_bit_assembler.md, the consequences under REFERENCE and under CORRECTED, which the spec derives
from R59, R60, R63 and R64): from a frame start with `write_index = w0`, after samples that emit the bits `e`, bit `e k`
stands in slot `(w0 + k div T) mod 4` at position `k mod T` (unless the writer has come round the four slots since), the
cursor is `n mod T`, and the write index `(w0 + n div T) mod 4`, `n` the number of bits; positions from `T` on are never
written. -/
def Obligations.WhereEveryBitGoes : Prop :=
  ∀ (ls : List Level) (s : State), s.bitCursor = 0 →
    let e := emittedBits s.lastSample ls
    let T := s.rolloverMode.bitsPerCommit
    ∃ t, runSamples ls s = .next t ∧
      t.writeIndex.val = (s.writeIndex.val + e.length / T) % 4 ∧ t.bitCursor.val = e.length % T ∧
      (∀ (k : Nat) (hk : k < e.length), e.length ≤ k + 4 * T →
        slotBit (Fin.ofNat 4 (s.writeIndex.val + k / T)) (Fin.ofNat 56 (k % T)) t = e[k]) ∧
      (∀ (i : Fin 4) (p : Fin 56), T ≤ p.val → slotBit i p t = slotBit i p s)

/-- The frame in progress (the rule R21 of 10_state.md, which the spec derives from R60 and R81): from a frame start, before
the first commit, positions below the cursor of the write slot hold the emitted bits in order, every position from the cursor
on and every other slot hold what they held before, and nothing is counted. -/
def Obligations.FrameInProgress : Prop :=
  ∀ (ls : List Level) (s : State), s.bitCursor = 0 →
    let e := emittedBits s.lastSample ls
    e.length < s.rolloverMode.bitsPerCommit →
    ∃ t, runSamples ls s = .next t ∧ t.writeIndex = s.writeIndex ∧ t.bitCursor.val = e.length ∧
      (∀ p : Fin 56, slotBit s.writeIndex p t = (e[p.val]?).getD (slotBit s.writeIndex p s)) ∧
      (∀ i, i ≠ s.writeIndex → readSlot i t = readSlot i s) ∧ occupiedCount t = occupiedCount s

/-- Where the two modes part (the rule R67 of 41_bit_assembler.md, which the spec derives): the same samples from the same
frame start write bits 0 to 54 to the same places and commit nothing before bit 54; REFERENCE commits at bit 54 and
CORRECTED at bit 55; bit 55 goes to position 0 of the next slot under REFERENCE, leaving position 55 as it was, and to
position 55 of the first slot under CORRECTED. -/
def Obligations.WhereTheModesPart : Prop :=
  ∀ (ls : List Level) (s : State), s.bitCursor = 0 →
    let e := emittedBits s.lastSample ls
    ∃ tR tC, runSamples ls { s with rolloverMode := .reference } = .next tR ∧
      runSamples ls { s with rolloverMode := .corrected } = .next tC ∧
      (e.length < 55 → tC = { tR with rolloverMode := .corrected } ∧ tR.writeIndex = s.writeIndex ∧
        tR.bitCursor.val = e.length) ∧
      (e.length = 55 → tC.slots = tR.slots ∧ tR.writeIndex = nextIndex s.writeIndex ∧ tR.bitCursor = 0 ∧
        tC.writeIndex = s.writeIndex ∧ tC.bitCursor = 55) ∧
      (∀ h : e.length = 56,
        tR.writeIndex = nextIndex s.writeIndex ∧ tR.bitCursor = 1 ∧
        tC.writeIndex = nextIndex s.writeIndex ∧ tC.bitCursor = 0 ∧
        slotBit (nextIndex s.writeIndex) 0 tR = e[55] ∧ slotBit s.writeIndex 55 tR = slotBit s.writeIndex 55 s ∧
        slotBit s.writeIndex 55 tC = e[55] ∧
        slotBit (nextIndex s.writeIndex) 0 tC = slotBit (nextIndex s.writeIndex) 0 s)

/-- SENDBIT from any level (the table and the note of 30_encoding.md on the pseudo-instructions, decision D18, effects
derived from R50 and R51): from IDLE it emits exactly its bit; from the other data level it emits the pending bit first; from
the same data level the two merge into one bit; it ends with `last_sample = IDLE`. -/
def Obligations.SendBitEffect : Prop :=
  ∀ (b : Bit) (s : State),
    let pendingBit : List Bit := match s.lastSample with
      | .idle => []
      | .high => if b then [] else [true]
      | .low => if b then [false] else []
    runInstrs (sendBit b) s = .next { assembleAll (pendingBit ++ [b]) s with lastSample := .idle }

/-- The round trip under CORRECTED, "encoding a known 7-byte pattern into a sample sequence (inverse of the decode rule) and
feeding it back through feed() reproduces that exact byte pattern" (41_bit_assembler.md on CORRECTED, 95_test_vectors.md E8,
derived from R59, R60, R63 and R64; the encoder is the spec's decision D18): from a frame start, SENDFRAME of any seven
bytes leaves exactly these bytes in the write slot, commits it, and changes nothing else. -/
def Obligations.CorrectedRoundTrip : Prop :=
  ∀ (b0 b1 b2 b3 b4 b5 b6 : Byte) (s : State),
    s.rolloverMode = .corrected → s.bitCursor = 0 → s.lastSample = .idle →
    ∃ t, runInstrs (sendFrame b0 b1 b2 b3 b4 b5 b6) s = .next t ∧
      t = { s with slots := t.slots, writeIndex := nextIndex s.writeIndex } ∧
      (∀ i, i ≠ s.writeIndex → readSlot i t = readSlot i s) ∧
      frameCommand (readSlot s.writeIndex t) = b0 ∧ framePayload (readSlot s.writeIndex t) 0 = b1 ∧
      framePayload (readSlot s.writeIndex t) 1 = b2 ∧ framePayload (readSlot s.writeIndex t) 2 = b3 ∧
      framePayload (readSlot s.writeIndex t) 3 = b4 ∧ framePayload (readSlot s.writeIndex t) 4 = b5 ∧
      frameChecksum (readSlot s.writeIndex t) = b6

/-- RESET in mid-frame and then a whole frame, under CORRECTED (70_reset_and_hazards.md on RESET mid-frame, derived from R81):
from any state with room for a frame, whatever the cursor and the level, exactly one frame is added to the unread ones, it
is the frame sent, and the abandoned bits never surface. -/
def Obligations.ResetThenFrameAddsExactlyOne : Prop :=
  ∀ (b0 b1 b2 b3 b4 b5 b6 : Byte) (s : State), s.rolloverMode = .corrected → (occupiedCount s).val < 3 →
    ∃ t, runInstrs (.reset :: sendFrame b0 b1 b2 b3 b4 b5 b6) s = .next t ∧
      unread t = unread s ++ [frameOfBytes b0 b1 b2 b3 b4 b5 b6] ∧ t.results = s.results

/-! ### The ring buffer as a queue -/

/-- First in, first out (the rules R22, R76 and R77 of 10_state.md and 42_ring_buffer.md, which the spec derives from R70,
R71 and R72): the ring with its two indices behaves as the queue of unread frames. A FEED that commits with fewer than
three unread puts the write slot's frame at the back; any other FEED that does not overflow, RESET and COMPLETE leave the
queue; COMPLETE returns its length; GET_FRAME returns and removes its front, or reports empty. -/
def Obligations.RingRefinesTheQueue : Prop :=
  ∀ s : State,
    (∀ l, overflows l s = false → ∃ t, exec (feedOf l) s = .next t ∧
      unread t = if commits l s then unread s ++ [readSlot s.writeIndex t] else unread s) ∧
    (∃ t, exec .reset s = .next t ∧ unread t = unread s) ∧
    (∃ t n, exec .complete s = .next t ∧ unread t = unread s ∧ t.results = s.results ++ [⟨s.caller, .count n⟩] ∧
      n.val = (unread s).length) ∧
    (∃ t, exec .getFrame s = .next t ∧ unread t = (unread s).tail ∧
      t.results = s.results ++ [⟨s.caller, .frame (unread s).head?⟩])

/-- Overflow (the rule R74 of 42_ring_buffer.md, derived from R70, R71 and R73, and 90_conflicts.md C1 and C2): the commit of
a fourth unread frame empties the buffer, silently: no result is given, the count is 0 and the next GET_FRAME reports
empty. -/
def Obligations.OverflowEmptiesTheBuffer : Prop :=
  ∀ (l : Level) (s : State), overflows l s = true →
    ∃ t, exec (feedOf l) s = .next t ∧ t.writeIndex = t.readIndex ∧ unread t = [] ∧ t.results = s.results ∧
      exec .complete t = .next { t with results := t.results ++ [⟨t.caller, .count 0⟩] } ∧
      exec .getFrame t = .next { t with results := t.results ++ [⟨t.caller, .frame none⟩] }

/-- With nothing popped, the count goes round modulo 4 (42_ring_buffer.md R71 with R70; 95_test_vectors.md E4, 90_conflicts.md
C1): from equal indices at a frame start, after `n` emitted bits COMPLETE returns `(n div T) mod 4`, so five whole frames
leave a count of 1. -/
def Obligations.CountGoesRoundWithoutPops : Prop :=
  ∀ (ls : List Level) (s : State), s.bitCursor = 0 → s.writeIndex = s.readIndex →
    ∃ t n, runInstrs (ls.map feedOf ++ [.complete]) s = .next t ∧
      t.results = s.results ++ [⟨s.caller, .count n⟩] ∧
      n.val = ((emittedBits s.lastSample ls).length / s.rolloverMode.bitsPerCommit) % 4

/-! ### The frame -/

/-- 20_memory.md R27 and R29: byte `j` of a slot is its bits `8j+7` to `8j`, and frame position `p` is bit `p mod 8` (bit 0 the
least significant) of byte `p div 8`. -/
def Obligations.FrameLayout : Prop :=
  (∀ (f : Frame) (j : Fin 7), frameByte f j = BitVec.ofNat 8 (f.toNat / 2 ^ (8 * j.val))) ∧
  (∀ (f : Frame) (p : Fin 56),
    frameBit f p = (frameByte f ⟨p.val / 8, by omega⟩).getLsbD (p.val % 8))

/-- The bytes in field order make the frame, little-endian (20_memory.md R28; the sum is the rule R30, which the spec derives
from R28 and R29): a frame is made of its own bytes, and as a number it is the sum of `byte j` times `2^(8j)`. -/
def Obligations.FrameIsLittleEndian : Prop :=
  ∀ f : Frame,
    f = frameOfBytes (frameCommand f) (framePayload f 0) (framePayload f 1) (framePayload f 2) (framePayload f 3)
      (framePayload f 4) (frameChecksum f) ∧
    f.toNat = (frameCommand f).toNat + (framePayload f 0).toNat * 2 ^ 8 + (framePayload f 1).toNat * 2 ^ 16 +
      (framePayload f 2).toNat * 2 ^ 24 + (framePayload f 3).toNat * 2 ^ 32 + (framePayload f 4).toNat * 2 ^ 40 +
      (frameChecksum f).toNat * 2 ^ 48

/-- The external check passes exactly the frames whose checksum byte is the exclusive or of the six others (20_memory.md R38),
and the block never acts on it: GET_FRAME returns the frame at `read_index` whether or not it passes (20_memory.md R37,
43_public_api.md R83 (e)). The result stands in the model's record of results (DESIGN CHOICE, log 2). -/
def Obligations.ChecksumIsNotEnforced : Prop :=
  (∀ f : Frame, verifyFrame f = true ↔
    f.extractLsb' 48 8 = f.extractLsb' 0 8 ^^^ f.extractLsb' 8 8 ^^^ f.extractLsb' 16 8 ^^^ f.extractLsb' 24 8 ^^^
      f.extractLsb' 32 8 ^^^ f.extractLsb' 40 8) ∧
  (∀ s : State, s.writeIndex ≠ s.readIndex → ∃ t, exec .getFrame s = .next t ∧
    t.results = s.results ++ [⟨s.caller, .frame (some (readSlot s.readIndex s))⟩])
end

