-- ==== Sys2Proof/Laws/Assembler.lean ====
section
/-! SUPPORT. One digit of the hex text: what it writes reads back, and what reads as a word is that word's digit. -/

namespace Sys2Proof.Machine

/-- A word's digit reads back as the word (30_encoding.md R42). -/
@[simp] theorem wordOfDigit_hexDigit (w : Word) : wordOfDigit (hexDigit w) = some w := by revert w; decide

/-- The characters that read as a word: a decimal digit, or one of six letters in either case, by character number. -/
theorem wordOfDigit_cases {digit : Char} {w : Word} (h : wordOfDigit digit = some w) :
    (∃ k < 10, digit.toNat = 48 + k ∧ w = BitVec.ofNat 4 k) ∨
    (∃ k < 6, (digit.toNat = 65 + k ∨ digit.toNat = 97 + k) ∧ w = BitVec.ofNat 4 (k + 10)) := by
  have h0 : '0'.toNat = 48 := rfl
  have ha : 'a'.toNat = 97 := rfl
  by_cases capital : 65 ≤ digit.toNat ∧ digit.toNat ≤ 90
  · have hlower : (lowerCase digit).toNat = digit.toNat + 32 := by
      rw [lowerCase, if_pos capital, Char.toNat_ofNat, if_pos (Or.inl (by omega))]
    simp only [wordOfDigit, hlower, h0, ha] at h
    rw [if_neg (by omega)] at h
    split at h
    · injection h with h
      exact .inr ⟨digit.toNat - 65, by omega, .inl (by omega), by rw [← h]; congr 1⟩
    · cases h
  · have hlower : (lowerCase digit).toNat = digit.toNat := by rw [lowerCase, if_neg capital]
    simp only [wordOfDigit, hlower, h0, ha] at h
    split at h
    · injection h with h
      exact .inl ⟨digit.toNat - 48, by omega, by omega, h.symm⟩
    · split at h
      · injection h with h
        exact .inr ⟨digit.toNat - 97, by omega, .inr (by omega), h.symm⟩
      · cases h

/-- A digit that reads as a word is the word's digit, but for a small letter, whose capital is. -/
theorem hexDigit_of_wordOfDigit {digit : Char} {w : Word} (h : wordOfDigit digit = some w) :
    hexDigit w = if 97 ≤ digit.toNat ∧ digit.toNat ≤ 102 then Char.ofNat (digit.toNat - 32) else digit := by
  have same : Char.ofNat digit.toNat = digit := Char.ofNat_toNat digit
  rcases wordOfDigit_cases h with ⟨k, hk, hd, rfl⟩ | ⟨k, hk, hd | hd, rfl⟩ <;> rw [← same] <;>
    interval_cases k <;> rw [hd] <;> rfl

end Sys2Proof.Machine
end

