-- ==== Sys2Proof/Laws/State.lean ====
section
/-! SUPPORT. One lemma per field and update, so that no later proof unfolds a record update. -/

namespace Sys2Proof.Machine

@[simp] theorem setLastSample_lastSample (l : Level) (s : State) : (setLastSample l s).lastSample = l := rfl
@[simp] theorem setLastSample_bitCursor (l : Level) (s : State) : (setLastSample l s).bitCursor = s.bitCursor := rfl
@[simp] theorem setLastSample_writeIndex (l : Level) (s : State) : (setLastSample l s).writeIndex = s.writeIndex := rfl
@[simp] theorem setLastSample_readIndex (l : Level) (s : State) : (setLastSample l s).readIndex = s.readIndex := rfl
@[simp] theorem setLastSample_slots (l : Level) (s : State) : (setLastSample l s).slots = s.slots := rfl
@[simp] theorem setLastSample_rolloverMode (l : Level) (s : State) : (setLastSample l s).rolloverMode = s.rolloverMode := rfl
@[simp] theorem setLastSample_pending (l : Level) (s : State) : (setLastSample l s).pending = s.pending := rfl
@[simp] theorem setLastSample_caller (l : Level) (s : State) : (setLastSample l s).caller = s.caller := rfl
@[simp] theorem setLastSample_results (l : Level) (s : State) : (setLastSample l s).results = s.results := rfl

@[simp] theorem setBitCursor_lastSample (c : Fin 56) (s : State) : (setBitCursor c s).lastSample = s.lastSample := rfl
@[simp] theorem setBitCursor_bitCursor (c : Fin 56) (s : State) : (setBitCursor c s).bitCursor = c := rfl
@[simp] theorem setBitCursor_writeIndex (c : Fin 56) (s : State) : (setBitCursor c s).writeIndex = s.writeIndex := rfl
@[simp] theorem setBitCursor_readIndex (c : Fin 56) (s : State) : (setBitCursor c s).readIndex = s.readIndex := rfl
@[simp] theorem setBitCursor_slots (c : Fin 56) (s : State) : (setBitCursor c s).slots = s.slots := rfl
@[simp] theorem setBitCursor_rolloverMode (c : Fin 56) (s : State) : (setBitCursor c s).rolloverMode = s.rolloverMode := rfl
@[simp] theorem setBitCursor_pending (c : Fin 56) (s : State) : (setBitCursor c s).pending = s.pending := rfl
@[simp] theorem setBitCursor_caller (c : Fin 56) (s : State) : (setBitCursor c s).caller = s.caller := rfl
@[simp] theorem setBitCursor_results (c : Fin 56) (s : State) : (setBitCursor c s).results = s.results := rfl

@[simp] theorem setWriteIndex_lastSample (i : Fin 4) (s : State) : (setWriteIndex i s).lastSample = s.lastSample := rfl
@[simp] theorem setWriteIndex_bitCursor (i : Fin 4) (s : State) : (setWriteIndex i s).bitCursor = s.bitCursor := rfl
@[simp] theorem setWriteIndex_writeIndex (i : Fin 4) (s : State) : (setWriteIndex i s).writeIndex = i := rfl
@[simp] theorem setWriteIndex_readIndex (i : Fin 4) (s : State) : (setWriteIndex i s).readIndex = s.readIndex := rfl
@[simp] theorem setWriteIndex_slots (i : Fin 4) (s : State) : (setWriteIndex i s).slots = s.slots := rfl
@[simp] theorem setWriteIndex_rolloverMode (i : Fin 4) (s : State) : (setWriteIndex i s).rolloverMode = s.rolloverMode := rfl
@[simp] theorem setWriteIndex_pending (i : Fin 4) (s : State) : (setWriteIndex i s).pending = s.pending := rfl
@[simp] theorem setWriteIndex_caller (i : Fin 4) (s : State) : (setWriteIndex i s).caller = s.caller := rfl
@[simp] theorem setWriteIndex_results (i : Fin 4) (s : State) : (setWriteIndex i s).results = s.results := rfl

@[simp] theorem setReadIndex_lastSample (i : Fin 4) (s : State) : (setReadIndex i s).lastSample = s.lastSample := rfl
@[simp] theorem setReadIndex_bitCursor (i : Fin 4) (s : State) : (setReadIndex i s).bitCursor = s.bitCursor := rfl
@[simp] theorem setReadIndex_writeIndex (i : Fin 4) (s : State) : (setReadIndex i s).writeIndex = s.writeIndex := rfl
@[simp] theorem setReadIndex_readIndex (i : Fin 4) (s : State) : (setReadIndex i s).readIndex = i := rfl
@[simp] theorem setReadIndex_slots (i : Fin 4) (s : State) : (setReadIndex i s).slots = s.slots := rfl
@[simp] theorem setReadIndex_rolloverMode (i : Fin 4) (s : State) : (setReadIndex i s).rolloverMode = s.rolloverMode := rfl
@[simp] theorem setReadIndex_pending (i : Fin 4) (s : State) : (setReadIndex i s).pending = s.pending := rfl
@[simp] theorem setReadIndex_caller (i : Fin 4) (s : State) : (setReadIndex i s).caller = s.caller := rfl
@[simp] theorem setReadIndex_results (i : Fin 4) (s : State) : (setReadIndex i s).results = s.results := rfl

@[simp] theorem writeSlotBit_lastSample (i : Fin 4) (p : Fin 56) (b : Bit) (s : State) : (writeSlotBit i p b s).lastSample = s.lastSample := rfl
@[simp] theorem writeSlotBit_bitCursor (i : Fin 4) (p : Fin 56) (b : Bit) (s : State) : (writeSlotBit i p b s).bitCursor = s.bitCursor := rfl
@[simp] theorem writeSlotBit_writeIndex (i : Fin 4) (p : Fin 56) (b : Bit) (s : State) : (writeSlotBit i p b s).writeIndex = s.writeIndex := rfl
@[simp] theorem writeSlotBit_readIndex (i : Fin 4) (p : Fin 56) (b : Bit) (s : State) : (writeSlotBit i p b s).readIndex = s.readIndex := rfl
@[simp] theorem writeSlotBit_slots (i : Fin 4) (p : Fin 56) (b : Bit) (s : State) : (writeSlotBit i p b s).slots = s.slots.set i (setFrameBit (readSlot i s) p b) := rfl
@[simp] theorem writeSlotBit_rolloverMode (i : Fin 4) (p : Fin 56) (b : Bit) (s : State) : (writeSlotBit i p b s).rolloverMode = s.rolloverMode := rfl
@[simp] theorem writeSlotBit_pending (i : Fin 4) (p : Fin 56) (b : Bit) (s : State) : (writeSlotBit i p b s).pending = s.pending := rfl
@[simp] theorem writeSlotBit_caller (i : Fin 4) (p : Fin 56) (b : Bit) (s : State) : (writeSlotBit i p b s).caller = s.caller := rfl
@[simp] theorem writeSlotBit_results (i : Fin 4) (p : Fin 56) (b : Bit) (s : State) : (writeSlotBit i p b s).results = s.results := rfl

@[simp] theorem deliver_lastSample (r : Result) (s : State) : (deliver r s).lastSample = s.lastSample := rfl
@[simp] theorem deliver_bitCursor (r : Result) (s : State) : (deliver r s).bitCursor = s.bitCursor := rfl
@[simp] theorem deliver_writeIndex (r : Result) (s : State) : (deliver r s).writeIndex = s.writeIndex := rfl
@[simp] theorem deliver_readIndex (r : Result) (s : State) : (deliver r s).readIndex = s.readIndex := rfl
@[simp] theorem deliver_slots (r : Result) (s : State) : (deliver r s).slots = s.slots := rfl
@[simp] theorem deliver_rolloverMode (r : Result) (s : State) : (deliver r s).rolloverMode = s.rolloverMode := rfl
@[simp] theorem deliver_pending (r : Result) (s : State) : (deliver r s).pending = s.pending := rfl
@[simp] theorem deliver_caller (r : Result) (s : State) : (deliver r s).caller = s.caller := rfl
@[simp] theorem deliver_results (r : Result) (s : State) : (deliver r s).results = s.results ++ [⟨s.caller, r⟩] := rfl


end Sys2Proof.Machine
end

