-- ==== Sys2Proof/Laws/Slots.lean ====
section
/-! SUPPORT. Read after write of one bit of one slot: the written bit reads back, every other bit reads as before. The slot
array needs no canonical form: it holds its four frames by its type, so equal contents are equal data.
-/

namespace Sys2Proof.Machine

/-- The bit written to a frame reads back, and every other bit is unchanged (41_bit_assembler.md R58). -/
theorem frameBit_setFrameBit (f : Frame) (p q : Fin 56) (b : Bit) :
    frameBit (setFrameBit f p b) q = if q = p then b else frameBit f q := by
  have hbit : (1#56 <<< p.val).getLsbD q.val = decide (q = p) := by
    have hp := p.isLt
    have hq := q.isLt
    simp only [BitVec.getLsbD_shiftLeft, BitVec.getLsbD_one, Fin.ext_iff]
    rcases Nat.lt_trichotomy q.val p.val with h | h | h
    · simp [h]; omega
    · simp [h]
    · have h1 : ¬ q.val < p.val := by omega
      have h2 : q.val ≠ p.val := by omega
      have h3 : q.val - p.val ≠ 0 := by omega
      simp [h1, h2, h3]
  unfold frameBit setFrameBit
  simp only [← BitVec.getLsbD_eq_getElem]
  cases b <;> simp only [Bool.false_eq_true, if_false, if_true, BitVec.getLsbD_or, BitVec.getLsbD_and,
    BitVec.getLsbD_not, hbit] <;> by_cases h : q = p <;> simp [h]

/-- Reading a slot after a write of one bit. -/
theorem readSlot_writeSlotBit (i j : Fin 4) (p : Fin 56) (b : Bit) (s : State) :
    readSlot j (writeSlotBit i p b s) = if j = i then setFrameBit (readSlot i s) p b else readSlot j s := by
  unfold readSlot writeSlotBit
  by_cases h : j = i
  · subst h; simp [readSlot]
  · have : i.val ≠ j.val := fun e => h (Fin.ext e.symm)
    simp [h, this]

/-- Reading one bit after a write of one bit: read after write, and nothing else changes. -/
theorem slotBit_writeSlotBit (i j : Fin 4) (p q : Fin 56) (b : Bit) (s : State) :
    slotBit j q (writeSlotBit i p b s) = if j = i ∧ q = p then b else slotBit j q s := by
  unfold slotBit
  rw [readSlot_writeSlotBit]
  by_cases hj : j = i
  · subst hj; simp [frameBit_setFrameBit]
  · simp [hj]

/-- Two slots that agree on every bit are equal. -/
theorem frame_ext {f g : Frame} (h : ∀ p, frameBit f p = frameBit g p) : f = g := by
  apply BitVec.eq_of_getLsbD_eq
  intro i hi
  simpa [frameBit, BitVec.getLsbD_eq_getElem, hi] using h ⟨i, hi⟩

/-- Reading a slot sees the slots alone. -/
theorem readSlot_congr {s t : State} (h : s.slots = t.slots) (i : Fin 4) : readSlot i s = readSlot i t := by
  unfold readSlot; rw [h]

@[simp] theorem readSlot_setLastSample (l : Level) (i : Fin 4) (s : State) :
    readSlot i (setLastSample l s) = readSlot i s := rfl
@[simp] theorem readSlot_setBitCursor (c : Fin 56) (i : Fin 4) (s : State) :
    readSlot i (setBitCursor c s) = readSlot i s := rfl
@[simp] theorem readSlot_setWriteIndex (j i : Fin 4) (s : State) :
    readSlot i (setWriteIndex j s) = readSlot i s := rfl
@[simp] theorem readSlot_setReadIndex (j i : Fin 4) (s : State) :
    readSlot i (setReadIndex j s) = readSlot i s := rfl
@[simp] theorem readSlot_deliver (r : Result) (i : Fin 4) (s : State) :
    readSlot i (deliver r s) = readSlot i s := rfl

end Sys2Proof.Machine
end

