-- ==== Sys2Proof/Laws/Commands.lean ====
section
/-! SUPPORT. What each shared operation can do, said once: decode, assemble, push, count, pop, taking a request. -/

namespace Sys2Proof.Machine

/-- Every level is some FEED's sample, and the FEED of a level is one of the three words. -/
theorem sampleOf_feedOf (l : Level) : sampleOf (feedOf l) = some l := by cases l <;> rfl

/-- An instruction with a sample is the FEED of that sample. -/
theorem eq_feedOf_of_sampleOf {i : Instr} {l : Level} (h : sampleOf i = some l) : i = feedOf l := by
  cases i <;> simp [sampleOf] at h <;> subst h <;> rfl

/-- `exec` of the FEED of a level is `feed` of that level. -/
@[simp] theorem exec_feedOf (l : Level) (s : State) : exec (feedOf l) s = .next (feed l s) := by cases l <;> rfl

/-- The three things the decoder can answer (40_transition_decoder.md R50, R51). -/
theorem emitted_cases (prev l : Level) :
    (emitted prev l = none ∧ (l = prev ∨ prev = .idle)) ∨
    (emitted prev l = some true ∧ prev = .high ∧ l ≠ .high) ∨
    (emitted prev l = some false ∧ prev = .low ∧ l ≠ .low) := by
  cases prev <;> cases l <;> simp [emitted]

/-- A FEED that emits nothing changes `last_sample` alone. -/
theorem feed_of_emits_none {l : Level} {s : State} (h : emitted s.lastSample l = none) :
    feed l s = setLastSample l s := by
  simp [feed, decodeSample, h, assembleEmitted]

/-- A FEED that emits a bit assembles it. -/
theorem feed_of_emits {l : Level} {s : State} {b : Bit} (h : emitted s.lastSample l = some b) :
    feed l s = assemble b (setLastSample l s) := by
  simp [feed, decodeSample, h, assembleEmitted]

@[simp] theorem nextIndex_val (i : Fin 4) : (nextIndex i).val = (i.val + 1) % 4 := rfl

@[simp] theorem nextCursor_val (c : Fin 56) : (nextCursor c).val = (c.val + 1) % 56 := rfl

/-- The rollover point in numbers: the frame is full after 55 bits (REFERENCE) or 56 (CORRECTED). -/
theorem rollover_nextCursor {m : RolloverMode} {c : Fin 56} (h : c.val < m.bitsPerCommit) :
    rollover m (nextCursor c) = decide (c.val + 1 = m.bitsPerCommit) := by
  have := c.isLt
  cases m <;> simp [rollover, RolloverMode.bitsPerCommit, beq_eq_decide] at h ⊢ <;> omega

/-- The assembler's two cases, field by field (41_bit_assembler.md R60): the bit is written; then either the frame is
committed or the cursor advances. -/
theorem assemble_cases (b : Bit) (s : State) :
    (rollover s.rolloverMode (nextCursor s.bitCursor) = true ∧
      assemble b s = { writeSlotBit s.writeIndex s.bitCursor b s with
        writeIndex := nextIndex s.writeIndex, bitCursor := 0 }) ∨
    (rollover s.rolloverMode (nextCursor s.bitCursor) = false ∧
      assemble b s = { writeSlotBit s.writeIndex s.bitCursor b s with bitCursor := nextCursor s.bitCursor }) := by
  by_cases h : rollover s.rolloverMode (nextCursor s.bitCursor) = true
  · exact .inl ⟨h, by simp [assemble, h]; rfl⟩
  · simp only [Bool.not_eq_true] at h
    exact .inr ⟨h, by simp [assemble, h]; rfl⟩

/-- The slots after the assembler, whichever case it takes. -/
theorem assemble_slots (b : Bit) (s : State) :
    (assemble b s).slots = (writeSlotBit s.writeIndex s.bitCursor b s).slots := by
  rcases assemble_cases b s with ⟨-, h⟩ | ⟨-, h⟩ <;> rw [h]

/-- One bit after the assembler (41_bit_assembler.md R58): the bit at the write slot and cursor, every other one as before. -/
theorem slotBit_assemble (b : Bit) (s : State) (i : Fin 4) (p : Fin 56) :
    slotBit i p (assemble b s) = if i = s.writeIndex ∧ p = s.bitCursor then b else slotBit i p s := by
  rw [← slotBit_writeSlotBit]
  unfold slotBit
  rw [readSlot_congr (assemble_slots b s)]

/-- What the assembler leaves alone: everything but the slots, the cursor and `write_index`. -/
theorem assemble_frame (b : Bit) (s : State) :
    (assemble b s).lastSample = s.lastSample ∧ (assemble b s).readIndex = s.readIndex ∧
    (assemble b s).rolloverMode = s.rolloverMode ∧ (assemble b s).pending = s.pending ∧
    (assemble b s).caller = s.caller ∧ (assemble b s).results = s.results := by
  rcases assemble_cases b s with ⟨-, h⟩ | ⟨-, h⟩ <;> rw [h] <;> exact ⟨rfl, rfl, rfl, rfl, rfl, rfl⟩

/-- The occupied count in numbers (42_ring_buffer.md R71). -/
theorem occupiedCount_val (s : State) :
    (occupiedCount s).val = (4 + s.writeIndex.val - s.readIndex.val) % 4 := rfl

/-- Nothing is unread exactly when the indices are equal (42_ring_buffer.md R73). -/
theorem occupiedCount_eq_zero (s : State) : (occupiedCount s).val = 0 ↔ s.writeIndex = s.readIndex := by
  have := s.writeIndex.isLt
  have := s.readIndex.isLt
  rw [occupiedCount_val, Fin.ext_iff]
  omega

/-- The two things a pop can do (42_ring_buffer.md R72, R73). -/
theorem pop_cases (s : State) :
    (s.writeIndex = s.readIndex ∧ pop s = (none, s)) ∨
    (s.writeIndex ≠ s.readIndex ∧
      pop s = (some (readSlot s.readIndex s), setReadIndex (nextIndex s.readIndex) s)) := by
  by_cases h : s.writeIndex = s.readIndex
  · exact .inl ⟨h, by simp [pop, (occupiedCount_eq_zero s).2 h]⟩
  · have : 0 < (occupiedCount s).val := Nat.pos_of_ne_zero fun e => h ((occupiedCount_eq_zero s).1 e)
    exact .inr ⟨h, by simp [pop, this]⟩

/-- The two things a step can do: nothing, with no command pending, or the next command. -/
theorem step_cases (s : State) :
    (s.pending = [] ∧ step s = .next s) ∨
    (∃ r rest, s.pending = r :: rest ∧
      step s = exec (decodeWord r.word) { s with pending := rest, caller := r.agent }) := by
  cases h : s.pending with
  | nil => exact .inl ⟨rfl, by simp [step, takeRequest, h]⟩
  | cons r rest => exact .inr ⟨r, rest, rfl, by simp [step, takeRequest, h]⟩

/-- What a command can do to a state: the FEED of a level, RESET, COMPLETE or GET_FRAME (43_public_api.md R84). -/
theorem exec_cases {i : Instr} {s t : State} (h : exec i s = .next t) :
    (∃ l, i = feedOf l ∧ t = feed l s) ∨
    (i = .reset ∧ t = setBitCursor 0 (setLastSample .idle s)) ∨
    (i = .complete ∧ t = deliver (.count (occupiedCount s)) s) ∨
    (i = .getFrame ∧ t = deliver (.frame (pop s).1) (pop s).2) := by
  cases i <;> simp only [exec, execFeedIdle, execFeedHigh, execFeedLow, execReset, execComplete, execGetFrame,
    execReserved3, execReserved5, execReserved6, execReserved7, execReserved9, execReservedA, execReservedB,
    execReservedD, execReservedE, execReservedF, refuseReserved, Host.Outcome.next.injEq, reduceCtorEq] at h
  · exact .inl ⟨.idle, rfl, h.symm⟩
  · exact .inl ⟨.high, rfl, h.symm⟩
  · exact .inl ⟨.low, rfl, h.symm⟩
  · exact .inr (.inl ⟨rfl, h.symm⟩)
  · exact .inr (.inr (.inl ⟨rfl, h.symm⟩))
  · exact .inr (.inr (.inr ⟨rfl, h.symm⟩))

end Sys2Proof.Machine
end

