-- ==== Sys2Proof/Laws/PerInstr.lean ====
section
/-! SUPPORT. What holds of every instruction as syntax, one lemma per constructor. -/

namespace Sys2Proof.Laws.RoundTrip

/-- Decoding an instruction's word gives the instruction back (30_encoding.md R44, R46, R47). -/
def Statement (i : Instr) : Prop := decodeWord (encode i) = i

theorem feedIdle : Statement .feedIdle := rfl
theorem feedHigh : Statement .feedHigh := rfl
theorem feedLow : Statement .feedLow := rfl
theorem reset : Statement .reset := rfl
theorem complete : Statement .complete := rfl
theorem getFrame : Statement .getFrame := rfl
theorem reserved3 : Statement .reserved3 := rfl
theorem reserved5 : Statement .reserved5 := rfl
theorem reserved6 : Statement .reserved6 := rfl
theorem reserved7 : Statement .reserved7 := rfl
theorem reserved9 : Statement .reserved9 := rfl
theorem reservedA : Statement .reservedA := rfl
theorem reservedB : Statement .reservedB := rfl
theorem reservedD : Statement .reservedD := rfl
theorem reservedE : Statement .reservedE := rfl
theorem reservedF : Statement .reservedF := rfl

end Sys2Proof.Laws.RoundTrip
end

