-- ==== Sys2Proof/Tests/Slice0.lean ====
section
/-! SUPPORT. The model's own tests: expected results are the vectors of spec/95_test_vectors.md and the examples of the
rules (section named at each test); and, for each statement with hypotheses, a witness that meets them.
-/

namespace Sys2Proof.Tests

open Sys2Proof.Machine

/-- A small state: the power-on registers with all slots zero, in a given mode. -/
def blank (m : RolloverMode) : State where
  lastSample := .idle
  bitCursor := 0
  writeIndex := 0
  readIndex := 0
  slots := Vector.replicate 4 0#56
  rolloverMode := m
  pending := []
  caller := .consumer
  results := []

/-- The next state of an outcome, or the given state where there is none. -/
def nextOr (d : State) : Host.Outcome State Fault Refusal → State
  | .next s => s
  | .fault _ | .refused _ => d

/-- Samples HIGH, LOW, HIGH, LOW, … (95_test_vectors.md P5): from IDLE, `n + 1` of them emit `n` bits. -/
def alternating (n : Nat) : List Level := (List.range n).map fun k => if k % 2 = 0 then .high else .low

/-! ### Well-formedness, decoding -/

/-- The one check, "spells a command", refuses each reserved word (30_encoding.md R46). -/
theorem test_reserved_words_are_ill_formed :
    [Instr.reserved3, .reserved5, .reserved6, .reserved7, .reserved9, .reservedA, .reservedB, .reservedD, .reservedE,
      .reservedF].all (fun i => !i.wellFormed) = true := by decide

-- 95_test_vectors.md 2.1 and the "encoding" column of the opcode table: the words bit by bit.
theorem test_decode_feed_idle : decodeWord 0b0000#4 = .feedIdle := by decide
theorem test_decode_feed_high : decodeWord 0b0001#4 = .feedHigh := by decide
theorem test_decode_feed_low : decodeWord 0b0010#4 = .feedLow := by decide
theorem test_decode_reset : decodeWord 0b0100#4 = .reset := by decide
theorem test_decode_complete : decodeWord 0b1000#4 = .complete := by decide
theorem test_decode_get_frame : decodeWord 0b1100#4 = .getFrame := by decide
theorem test_decode_reserved :
    decodeWord 0b0011#4 = .reserved3 ∧ decodeWord 0b0101#4 = .reserved5 ∧ decodeWord 0b0110#4 = .reserved6 ∧
    decodeWord 0b0111#4 = .reserved7 ∧ decodeWord 0b1001#4 = .reserved9 ∧ decodeWord 0b1010#4 = .reservedA ∧
    decodeWord 0b1011#4 = .reservedB ∧ decodeWord 0b1101#4 = .reservedD ∧ decodeWord 0b1110#4 = .reservedE ∧
    decodeWord 0b1111#4 = .reservedF := by decide

/-- A table word of one byte, and a number that is no command word. -/
theorem test_table_words :
    decodeTableWord 8 0x0C = some .getFrame ∧ decodeTableWord 4 0x3 = some .reserved3 ∧
    decodeTableWord 8 0x1C = none := by decide

/-- 00_scope.md R6: the fixed parameters agree with one another and with the types. -/
theorem test_parameters_agree :
    Config.frameBytes = 1 + Config.payloadBytes + 1 ∧ Config.frameBits = 8 * Config.frameBytes ∧
    RolloverMode.bitsPerCommit .corrected = Config.frameBits ∧
    RolloverMode.bitsPerCommit .reference = Config.frameBits - 1 ∧
    (blank .reference).slots.toList.length = Config.nSlots := by decide

/-! ### Assembler text and pseudo-instructions (30_encoding.md R49; the byte table of 95_test_vectors.md section 3) -/

theorem test_sendbyte_81 :
    hexOfStream ((sendByte 0x81).map encode) =
      ['1', '0', '2', '0', '2', '0', '2', '0', '2', '0', '2', '0', '2', '0', '1', '0'] := by decide

theorem test_sendbyte_a5 :
    hexOfStream ((sendByte 0xA5).map encode) =
      ['1', '0', '2', '0', '1', '0', '2', '0', '2', '0', '1', '0', '2', '0', '1', '0'] := by decide

theorem test_hex_digits :
    (List.finRange 16).map (fun n => hexDigit (BitVec.ofFin n)) =
      ['0', '1', '2', '3', '4', '5', '6', '7', '8', '9', 'A', 'B', 'C', 'D', 'E', 'F'] ∧
    wordOfDigit 'g' = none ∧ wordOfDigit '@' = none ∧ wordOfDigit ':' = none ∧ wordOfDigit '/' = none := by decide

theorem test_byte_text :
    byteText ['0', 'x', 'A', '5'] = some 0xA5#8 ∧ byteText ['f'] = some 0x0F#8 ∧ byteText ['0', 'x', '9'] = some 0x09#8 ∧
    byteText ['8', 'G'] = none ∧ byteText [] = none := by decide

theorem test_assembler_line :
    assembleLine ['F', 'e', 'e', 'd', ' ', 'H', 'I', 'G', 'H', ' ', ';', 'x'] = some [.feedHigh] ∧
    assembleLine ['p', 'o', 'p'] = some [.getFrame] ∧
    assembleLine ['S', 'E', 'N', 'D', 'B', 'Y', 'T', 'E', ' ', 'F', 'F'] = some (sendByte 0xFF) ∧
    assembleLine ['f', 'e', 'e', 'd'] = none := by decide

/-! ### FEED (95_test_vectors.md 2.3) -/

/-- REF row 54: `slots[3][54] = 1`, cursor 0, `write_index` 0, count 0 (overflow). -/
theorem test_feed_low_reference_commits :
    let s : State := { blank .reference with lastSample := .high, bitCursor := 54, writeIndex := 3 }
    let t := nextOr s (exec .feedLow s)
    slotBit 3 54 t = true ∧ t.bitCursor = 0 ∧ t.writeIndex = 0 ∧ occupiedCount t = 0 := by decide

/-- COR rows 54 and 55: no commit at 54; at 55 `slots[3][55] = 1`, cursor 0, `write_index` 0, count 0 (overflow). -/
theorem test_feed_low_corrected_boundary :
    let s54 : State := { blank .corrected with lastSample := .high, bitCursor := 54, writeIndex := 3 }
    let s55 : State := { blank .corrected with lastSample := .high, bitCursor := 55, writeIndex := 3 }
    let t54 := nextOr s54 (exec .feedLow s54)
    let t55 := nextOr s55 (exec .feedLow s55)
    t54.bitCursor = 55 ∧ t54.writeIndex = 3 ∧ occupiedCount t54 = 3 ∧
    slotBit 3 55 t55 = true ∧ t55.bitCursor = 0 ∧ t55.writeIndex = 0 ∧ occupiedCount t55 = 0 := by decide

/-- A write clears as well as sets: byte 1 `0xFF` becomes `0xFD`, cursor 10 ("Other assembler vectors"). -/
theorem test_feed_high_clears_a_bit :
    let s : State := { blank .corrected with
      lastSample := .low, bitCursor := 9, writeIndex := 1, slots := (blank .corrected).slots.set 1 0xFF00#56 }
    let t := nextOr s (exec .feedHigh s)
    frameByte (readSlot 1 t) 1 = 0xFD#8 ∧ t.bitCursor = 10 := by decide

/-- From IDLE nothing changes but `last_sample` ("Other assembler vectors"). -/
theorem test_feed_high_from_idle :
    let s : State := { blank .reference with bitCursor := 9 }
    exec .feedHigh s = .next { s with lastSample := .high } := rfl

/-- LOW to IDLE emits 0 (40_transition_decoder.md R53). -/
theorem test_feed_idle_emits_zero :
    let s : State := { blank .reference with
      lastSample := .low, slots := (blank .reference).slots.set 0 0x1#56 }
    let t := nextOr s (exec .feedIdle s)
    readSlot 0 t = 0#56 ∧ t.bitCursor = 1 ∧ t.lastSample = .idle := by decide

/-! ### RESET, COMPLETE, GET_FRAME (95_test_vectors.md 2.4, 2.5) -/

theorem test_reset_example :
    let s : State := { blank .corrected with lastSample := .low, bitCursor := 17, writeIndex := 2, readIndex := 1 }
    exec .reset s = .next { blank .corrected with writeIndex := 2, readIndex := 1 } := rfl

/-- The table of counts, every pair of indices. -/
theorem test_complete_table :
    ((List.finRange 4).map fun w => (List.finRange 4).map fun r =>
      (occupiedCount { blank .reference with writeIndex := w, readIndex := r }).val) =
      [[0, 3, 2, 1], [1, 0, 3, 2], [2, 1, 0, 3], [3, 2, 1, 0]] := by decide

theorem test_complete_example :
    let s : State := { blank .corrected with readIndex := 2 }
    (nextOr s (exec .complete s)).results = [⟨.consumer, .count 2⟩] := by decide

theorem test_get_frame_example :
    let s : State := { blank .corrected with
      writeIndex := 1, slots := (blank .corrected).slots.set 0 (frameOfBytes 1 2 3 4 5 6 7) }
    let t := nextOr s (exec .getFrame s)
    t.results = [⟨.consumer, .frame (some 0x07060504030201#56)⟩] ∧ t.readIndex = 1 := by decide

/-- Pop vectors `(0, 3)`, which wraps, and `(3, 3)`, which is empty. -/
theorem test_get_frame_wraps_and_is_empty :
    let s : State := { blank .corrected with readIndex := 3 }
    let e : State := { blank .corrected with writeIndex := 3, readIndex := 3 }
    (nextOr s (exec .getFrame s)).readIndex = 0 ∧
    nextOr s (exec .getFrame e) = { e with results := [⟨.consumer, .frame none⟩] } := by decide

/-- 95_test_vectors.md 2.6. -/
theorem test_verify_frame :
    verifyFrame (frameOfBytes 0x80 0x01 0x02 0x03 0x04 0x05 0x81) = true ∧
    verifyFrame (frameOfBytes 0x05 0x05 0x05 0x05 0x05 0x05 0x00) = true ∧
    verifyFrame (frameOfBytes 0x55 0x55 0x55 0x55 0x55 0x55 0x55) = false ∧
    verifyFrame (frameOfBytes 0x80 0x01 0x02 0x03 0x04 0x05 0x01) = false ∧
    verifyFrame 0#56 = true := by decide

/-! ### The step -/

/-- The first command after power-on runs, and a reserved word is refused. -/
theorem test_step_after_reset :
    step (State.reset.withFetchWord 8 0x1) = .next { State.reset with lastSample := .high } ∧
    step (State.reset.withFetchWord 8 0xF) = .refused (.reservedWord 0xF#4) := ⟨rfl, rfl⟩

/-! ### Witnesses: a concrete state that meets each statement's hypotheses -/

/-- A state in mid-frame with three frames unread and a pending 1 (used below). -/
def full (m : RolloverMode) (c : Fin 56) : State :=
  { blank m with lastSample := .high, bitCursor := c, writeIndex := 3 }

/-- A state with one request pending. -/
def asked (w : Word) (s : State) : State := { s with pending := [⟨.producer, w⟩] }

theorem witness_ReservedWordsAreRefused :
    (asked 0x3 (blank .reference)).pending = [⟨.producer, 0x3#4⟩] ∧
    step (asked 0x3 (blank .reference)) = .refused (.reservedWord 0x3#4) := ⟨rfl, rfl⟩

theorem witness_StreamTextReadsEveryDigit : streamOfHex ['1', 'c', 'C'] = some [0x1#4, 0xC#4, 0xC#4] := by decide

theorem witness_StepRunsTheNextCommand :
    (blank .reference).pending = [] ∧
    ((asked 0x8 (blank .reference)).pending = [⟨.producer, 0x8#4⟩] ∧ decodeWord 0x8#4 = .complete) ∧
    decodeTableWord 8 0x8 = some .complete := ⟨rfl, ⟨rfl, rfl⟩, rfl⟩

theorem witness_ResetClearsDecoderStateOnly :
    exec .reset (full .corrected 9) = .next { blank .corrected with writeIndex := 3 } := rfl

theorem witness_TransitionDecoderRules :
    (Level.high = (full .corrected 9).lastSample) ∧
    (Level.low ≠ (full .corrected 9).lastSample ∧ (full .corrected 9).lastSample = .high) ∧
    (Level.idle ≠ ({ blank .corrected with lastSample := .low } : State).lastSample) ∧
    (Level.low ≠ (blank .corrected).lastSample ∧ (blank .corrected).lastSample = .idle) := by decide

/-- Both branches in both modes, at the cursors where they meet, and the cursor 55 under REFERENCE that no run reaches. -/
theorem witness_EmittedBitIsAssembled :
    emitted (full .reference 54).lastSample .low = some true ∧
    emitted (full .reference 55).lastSample .low = some true ∧ ((full .reference 55).bitCursor.val + 1) % 56 ≠ 55 ∧
    ((full .reference 54).bitCursor.val + 1) % 56 = 55 ∧ ((full .reference 53).bitCursor.val + 1) % 56 ≠ 55 ∧
    ((full .corrected 55).bitCursor.val + 1) % 56 = 0 ∧ ((full .corrected 54).bitCursor.val + 1) % 56 ≠ 0 := by decide

/-- Every row of the table: steady, from IDLE, HIGH left and LOW left, below and at the commit in both modes. -/
theorem witness_FeedCombinedEffect :
    (Level.high = (full .reference 3).lastSample) ∧ ((blank .reference).lastSample = .idle) ∧
    ((full .reference 3).lastSample = .high ∧ Level.low ≠ .high) ∧
    (({ blank .reference with lastSample := .low } : State).lastSample = .low ∧ Level.idle ≠ .low) ∧
    (full .reference 53).bitCursor.val + 1 < RolloverMode.bitsPerCommit .reference ∧
    (full .reference 54).bitCursor.val + 1 = RolloverMode.bitsPerCommit .reference ∧
    (full .corrected 54).bitCursor.val + 1 < RolloverMode.bitsPerCommit .corrected ∧
    (full .corrected 55).bitCursor.val + 1 = RolloverMode.bitsPerCommit .corrected := by decide

theorem witness_CompleteReturnsTheCount : (blank .corrected).writeIndex = (blank .corrected).readIndex := rfl

/-- The smallest and the largest count with a frame unread, and the empty buffer. -/
theorem witness_GetFramePops :
    (4 + ({ blank .corrected with readIndex := 3 } : State).writeIndex.val - 3) % 4 = 1 ∧
    0 < (4 + (full .corrected 0).writeIndex.val - (full .corrected 0).readIndex.val) % 4 ∧
    (4 + (blank .corrected).writeIndex.val - (blank .corrected).readIndex.val) % 4 = 0 := by decide

theorem witness_EmptyReadIsAResult :
    (blank .corrected).writeIndex = (blank .corrected).readIndex ∧
    (full .corrected 0).writeIndex ≠ (full .corrected 0).readIndex := by decide

theorem witness_FrameInProgressIsNeverPopped :
    exec .getFrame (full .corrected 0) = .next { full .corrected 0 with
      readIndex := 1, results := [⟨.consumer, .frame (some 0#56)⟩] } := rfl

theorem witness_EveryCommandIsAlwaysAccepted :
    Instr.getFrame.wellFormed = true ∧ ∀ i ∈ [Instr.feedHigh, .feedIdle, .getFrame], i.wellFormed = true := by decide

theorem witness_EveryStreamRunsToItsEnd :
    ∀ r ∈ (asked 0xC (blank .corrected)).pending, (decodeWord r.word).wellFormed = true := by decide

/-- A step that advances `write_index` (a FEED that commits) and one that advances `read_index`. -/
theorem witness_WhoWritesTheIndices :
    (nextOr (blank .corrected) (step (asked 0x2 (full .corrected 55)))).writeIndex ≠
      (asked 0x2 (full .corrected 55)).writeIndex ∧
    (nextOr (blank .corrected) (step (asked 0xC (full .corrected 55)))).readIndex ≠
      (asked 0xC (full .corrected 55)).readIndex := by decide

theorem witness_IndicesOnlyAdvance :
    step (asked 0x4 (full .corrected 9)) =
      .next { blank .corrected with writeIndex := 3, caller := .producer } ∧
    exec .reset (full .corrected 9) = .next { blank .corrected with writeIndex := 3 } := ⟨rfl, rfl⟩

theorem witness_SlotsChangeOneBitAtATime :
    slotBit 3 9 (nextOr (blank .corrected) (step (asked 0x2 (full .corrected 9)))) ≠
      slotBit 3 9 (asked 0x2 (full .corrected 9)) := by decide

theorem witness_StepKeepsTheInvariant :
    (asked 0x2 (full .reference 54)).Inv ∧ (asked 0x2 (full .corrected 55)).Inv ∧
    (nextOr (blank .corrected) (step (asked 0x2 (full .corrected 55)))).bitCursor = 0 := by decide

theorem witness_ReferenceNeverWritesPosition55 :
    (asked 0x2 (full .reference 54)).Inv ∧ (asked 0x2 (full .reference 54)).rolloverMode = .reference ∧
    Host.Core.run core 1 (asked 0x4 (full .reference 54)) =
      .next ({ blank .reference with writeIndex := 3, caller := .producer } : State) := by
  refine ⟨by decide, by decide, rfl⟩

theorem witness_OrderOfAgentsCanShow :
    let s : State := { full .corrected 55 with readIndex := 3 }
    commits .low s = true ∧ s.writeIndex = s.readIndex := by decide

/-- A frame start, and a bit (the first of the three emitted) that the writer has not come round to again. -/
theorem witness_WhereEveryBitGoes :
    (blank .reference).bitCursor = 0 ∧ emittedBits (blank .reference).lastSample (alternating 4) = [true, false, true] := by
  decide

theorem witness_FrameInProgress :
    (blank .reference).bitCursor = 0 ∧ (emittedBits .idle (alternating 55)).length = 54 ∧
    54 < (blank .reference).rolloverMode.bitsPerCommit := by decide

/-- The three lengths of the statement's three clauses. -/
theorem witness_WhereTheModesPart :
    (blank .corrected).bitCursor = 0 ∧ (emittedBits .idle (alternating 55)).length < 55 ∧
    (emittedBits .idle (alternating 56)).length = 55 ∧ (emittedBits .idle (alternating 57)).length = 56 := by decide

theorem witness_CorrectedRoundTrip :
    (blank .corrected).rolloverMode = .corrected ∧ (blank .corrected).bitCursor = 0 ∧
    (blank .corrected).lastSample = .idle := by decide

/-- Room for a frame, in mid-frame with a pending bit. -/
theorem witness_ResetThenFrameAddsExactlyOne :
    let s : State := { full .corrected 17 with readIndex := 1 }
    s.rolloverMode = .corrected ∧ (occupiedCount s).val = 2 := by decide

/-- A FEED that commits with room, one that does not commit, and one that overflows. -/
theorem witness_RingRefinesTheQueue :
    overflows .low { full .corrected 55 with readIndex := 1 } = false ∧
    commits .low { full .corrected 55 with readIndex := 1 } = true ∧ overflows .low (full .corrected 54) = false := by
  decide

theorem witness_OverflowEmptiesTheBuffer :
    overflows .low (full .corrected 55) = true ∧ overflows .low (full .reference 54) = true := by decide

theorem witness_CountGoesRoundWithoutPops :
    (blank .corrected).bitCursor = 0 ∧ (blank .corrected).writeIndex = (blank .corrected).readIndex := by decide

theorem witness_ChecksumIsNotEnforced : (full .corrected 0).writeIndex ≠ (full .corrected 0).readIndex := by decide

end Sys2Proof.Tests
end

section
/-! PROOFS. The family of 10_state.md: the power-on state, and who reads and writes `last_sample`. -/

namespace Sys2Proof.Machine

/-! ### The commands' meanings, and `last_sample` after each shared operation -/

@[simp] theorem mapNext_next (f : State → State) (s : State) : mapNext f (.next s) = .next (f s) := rfl

/-- RESET writes `last_sample` and the cursor (43_public_api.md R81). -/
@[simp] theorem exec_reset (s : State) : exec .reset s = .next (setBitCursor 0 (setLastSample .idle s)) := rfl

/-- COMPLETE delivers the occupied count (43_public_api.md R82). -/
@[simp] theorem exec_complete (s : State) : exec .complete s = .next (deliver (.count (occupiedCount s)) s) := rfl

/-- GET_FRAME delivers what the pop gives (43_public_api.md R83). -/
@[simp] theorem exec_getFrame (s : State) : exec .getFrame s = .next (deliver (.frame (pop s).1) (pop s).2) := rfl

/-- FEED writes its sample whether or not it emits a bit (40_transition_decoder.md R52): the decoder writes it and the
assembler leaves it. -/
@[simp] theorem feed_lastSample (l : Level) (s : State) : (feed l s).lastSample = l := by
  cases h : emitted s.lastSample l with
  | none => rw [feed_of_emits_none h, setLastSample_lastSample]
  | some b =>
    obtain ⟨hlast, -⟩ := assemble_frame b (setLastSample l s)
    rw [feed_of_emits h, hlast, setLastSample_lastSample]

@[simp] theorem pop_lastSample (s : State) : (pop s).2.lastSample = s.lastSample := by
  rcases pop_cases s with ⟨-, h⟩ | ⟨-, h⟩
  · rw [h]
  · rw [h, setReadIndex_lastSample]

/-! ### The consumer's operations do not see `last_sample` (10_state.md R15) -/

@[simp] theorem occupiedCount_setLastSample (l : Level) (s : State) :
    occupiedCount (setLastSample l s) = occupiedCount s := rfl

theorem deliver_setLastSample (r : Result) (l : Level) (s : State) :
    deliver r (setLastSample l s) = setLastSample l (deliver r s) := rfl

theorem setReadIndex_setLastSample (i : Fin 4) (l : Level) (s : State) :
    setReadIndex i (setLastSample l s) = setLastSample l (setReadIndex i s) := rfl

theorem pop_setLastSample (l : Level) (s : State) :
    pop (setLastSample l s) = ((pop s).1, setLastSample l (pop s).2) := by
  by_cases h : 0 < (occupiedCount s).val
  · simp [pop, h, setReadIndex_setLastSample]
  · simp [pop, h]

theorem exec_complete_setLastSample (l : Level) (s : State) :
    exec .complete (setLastSample l s) = mapNext (setLastSample l) (exec .complete s) := by
  simp [deliver_setLastSample]

theorem exec_getFrame_setLastSample (l : Level) (s : State) :
    exec .getFrame (setLastSample l s) = mapNext (setLastSample l) (exec .getFrame s) := by
  simp [pop_setLastSample, deliver_setLastSample]

/-! ### Who writes `last_sample`, command by command (10_state.md R15, R16) -/

theorem exec_feedOf_writes_lastSample (l : Level) (s : State) :
    ∃ t, exec (feedOf l) s = .next t ∧ t.lastSample = l :=
  ⟨feed l s, exec_feedOf l s, feed_lastSample l s⟩

theorem exec_reset_clears_lastSample (s : State) : ∃ t, exec .reset s = .next t ∧ t.lastSample = .idle :=
  ⟨_, exec_reset s, by simp⟩

theorem exec_complete_keeps_lastSample (s : State) :
    ∃ t, exec .complete s = .next t ∧ t.lastSample = s.lastSample :=
  ⟨_, exec_complete s, by simp⟩

theorem exec_getFrame_keeps_lastSample (s : State) :
    ∃ t, exec .getFrame s = .next t ∧ t.lastSample = s.lastSample :=
  ⟨_, exec_getFrame s, by simp⟩

/-! ### The obligations -/

/-- Settles O6: the registers are the fields of `State.reset`, and the count is 0 because its indices are equal. -/
theorem powerOnState : Obligations.PowerOnState :=
  ⟨rfl, rfl, rfl, rfl, rfl, rfl, (occupiedCount_eq_zero State.reset).2 rfl⟩

/-- Settles O7: power-on by its field, RESET by what it writes. -/
theorem lastSampleResetValues : Obligations.LastSampleResetValues :=
  ⟨rfl, exec_reset_clears_lastSample⟩

/-- Settles O10: the writers by value; COMPLETE and GET_FRAME by commuting with a write of `last_sample` and keeping it. -/
theorem lastSampleReadersAndWriters : Obligations.LastSampleReadersAndWriters := by
  refine ⟨fun s => ⟨?feedIdle, ?feedHigh, ?feedLow, exec_reset_clears_lastSample s⟩,
    fun s l => ⟨exec_complete_setLastSample l s, exec_getFrame_setLastSample l s⟩,
    fun s => ⟨exec_complete_keeps_lastSample s, exec_getFrame_keeps_lastSample s⟩⟩
  case feedIdle => exact exec_feedOf_writes_lastSample .idle s
  case feedHigh => exact exec_feedOf_writes_lastSample .high s
  case feedLow => exact exec_feedOf_writes_lastSample .low s

end Sys2Proof.Machine
end

section
/-! PROOFS. The family of 20_memory.md: the bytes of a frame, and the check that the block never makes. -/

namespace Sys2Proof.Machine

/-! ### A byte of a frame, as a number and bit by bit (20_memory.md R27, R29) -/

/-- Byte `j` is digit `j` of the frame in base 256. -/
@[simp] theorem frameByte_toNat (f : Frame) (j : Fin 7) :
    (frameByte f j).toNat = f.toNat / 2 ^ (8 * j.val) % 256 := by
  rw [frameByte, BitVec.extractLsb'_toNat, Nat.shiftRight_eq_div_pow]

theorem frameByte_eq_ofNat (f : Frame) (j : Fin 7) :
    frameByte f j = BitVec.ofNat 8 (f.toNat / 2 ^ (8 * j.val)) :=
  BitVec.eq_of_toNat_eq (by rw [frameByte_toNat, BitVec.toNat_ofNat])

theorem frameByte_getLsbD (f : Frame) (j : Fin 7) {k : Nat} (hk : k < 8) :
    (frameByte f j).getLsbD k = f.getLsbD (8 * j.val + k) := by
  simp [frameByte, hk]

theorem frameBit_eq_getLsbD_frameByte (f : Frame) (p : Fin 56) :
    frameBit f p = (frameByte f ⟨p.val / 8, by omega⟩).getLsbD (p.val % 8) := by
  rw [frameByte_getLsbD f _ (Nat.mod_lt _ (by decide)), Nat.div_add_mod, frameBit, BitVec.getLsbD_eq_getElem]

/-! ### The whole frame, little-endian (20_memory.md R28, R30) -/

/-- A byte appended below `x` is one digit more in base 256. -/
theorem append_byte_toNat {n : Nat} (x : BitVec n) (b : Byte) : (x ++ b).toNat = x.toNat * 2 ^ 8 + b.toNat := by
  rw [BitVec.toNat_append, ← Nat.shiftLeft_add_eq_or_of_lt b.isLt, Nat.shiftLeft_eq]

/-- The frame of seven bytes is their little-endian sum, whatever the bytes. -/
theorem frameOfBytes_toNat (b0 b1 b2 b3 b4 b5 b6 : Byte) :
    (frameOfBytes b0 b1 b2 b3 b4 b5 b6).toNat =
      b0.toNat + b1.toNat * 2 ^ 8 + b2.toNat * 2 ^ 16 + b3.toNat * 2 ^ 24 + b4.toNat * 2 ^ 32 + b5.toNat * 2 ^ 40 +
        b6.toNat * 2 ^ 48 := by
  simp only [frameOfBytes, append_byte_toNat]
  omega

/-- A number below `2^56` is the weighted sum of its seven digits in base 256. -/
theorem frame_toNat_eq_sum (f : Frame) :
    f.toNat = (frameCommand f).toNat + (framePayload f 0).toNat * 2 ^ 8 + (framePayload f 1).toNat * 2 ^ 16 +
      (framePayload f 2).toNat * 2 ^ 24 + (framePayload f 3).toNat * 2 ^ 32 + (framePayload f 4).toNat * 2 ^ 40 +
      (frameChecksum f).toNat * 2 ^ 48 := by
  have hlt : f.toNat < 2 ^ 56 := f.isLt
  simp only [frameCommand, framePayload, frameChecksum, frameByte_toNat, Fin.coe_ofNat_eq_mod, Nat.reduceMod,
    Nat.reduceAdd, Nat.reduceMul, Nat.reducePow]
  omega

theorem frame_eq_frameOfBytes (f : Frame) :
    f = frameOfBytes (frameCommand f) (framePayload f 0) (framePayload f 1) (framePayload f 2) (framePayload f 3)
      (framePayload f 4) (frameChecksum f) :=
  BitVec.eq_of_toNat_eq ((frame_toNat_eq_sum f).trans (frameOfBytes_toNat ..).symm)

/-! ### The external check, and what GET_FRAME delivers (20_memory.md R37, R38) -/

/-- The check compares the checksum byte with the exclusive or of the six others. -/
theorem verifyFrame_iff (f : Frame) :
    verifyFrame f = true ↔ frameByte f 6 =
      frameByte f 0 ^^^ frameByte f 1 ^^^ frameByte f 2 ^^^ frameByte f 3 ^^^ frameByte f 4 ^^^ frameByte f 5 := by
  rw [verifyFrame, beq_iff_eq]

/-- With a frame unread, a pop gives the oldest one, whatever it holds (42_ring_buffer.md R72). -/
theorem pop_of_ne {s : State} (h : s.writeIndex ≠ s.readIndex) :
    pop s = (some (readSlot s.readIndex s), setReadIndex (nextIndex s.readIndex) s) := by
  rcases pop_cases s with ⟨heq, -⟩ | ⟨-, hpop⟩
  · exact absurd heq h
  · exact hpop

theorem exec_getFrame_of_ne {s : State} (h : s.writeIndex ≠ s.readIndex) :
    exec .getFrame s = .next (deliver (.frame (some (readSlot s.readIndex s)))
      (setReadIndex (nextIndex s.readIndex) s)) := by
  rw [exec_getFrame, pop_of_ne h]

/-! ### The obligations -/

/-- Settles O40: a byte is a digit in base 256, and position `p` is `8 * (p / 8) + p % 8`. -/
theorem frameLayout : Obligations.FrameLayout :=
  ⟨frameByte_eq_ofNat, frameBit_eq_getLsbD_frameByte⟩

/-- Settles O41: the frame and the frame of its bytes are both the weighted sum of the bytes. -/
theorem frameIsLittleEndian : Obligations.FrameIsLittleEndian :=
  fun f => ⟨frame_eq_frameOfBytes f, frame_toNat_eq_sum f⟩

/-- Settles O42: the check's own rule, and the pop of a non-empty buffer, which never asks for it. -/
theorem checksumIsNotEnforced : Obligations.ChecksumIsNotEnforced :=
  ⟨verifyFrame_iff, fun s h => ⟨_, exec_getFrame_of_ne h, by simp⟩⟩

end Sys2Proof.Machine
end

section
/-! PROOFS. The family of 30_encoding.md: which words spell a command, and what becomes of the others. -/

namespace Sys2Proof.Machine

/-! ### Which words are reserved, and what `exec` answers to them (30_encoding.md R46) -/

/-- The ten words of R46 are those that decode to no command. -/
theorem decodeWord_wellFormed_eq_false_iff (w : Word) :
    (decodeWord w).wellFormed = false ↔
      w ∈ [0x3#4, 0x5#4, 0x6#4, 0x7#4, 0x9#4, 0xA#4, 0xB#4, 0xD#4, 0xE#4, 0xF#4] := by
  revert w
  decide

/-- Every command completes, in every state (43_public_api.md R84). -/
theorem exec_of_wellFormed {i : Instr} (h : i.wellFormed = true) (s : State) : ∃ t, exec i s = .next t := by
  cases i with
  | feedIdle | feedHigh | feedLow | reset | complete | getFrame => exact ⟨_, rfl⟩
  | reserved3 | reserved5 | reserved6 | reserved7 | reserved9 => cases h
  | reservedA | reservedB | reservedD | reservedE | reservedF => cases h

/-- A reserved word is refused under its own name, whatever the state. -/
theorem exec_of_not_wellFormed {i : Instr} (h : i.wellFormed = false) (s : State) :
    exec i s = .refused (.reservedWord (encode i)) := by
  cases i with
  | feedIdle | feedHigh | feedLow | reset | complete | getFrame => cases h
  | reserved3 | reserved5 | reserved6 | reserved7 | reserved9 => rfl
  | reservedA | reservedB | reservedD | reservedE | reservedF => rfl

theorem exec_refused_iff (i : Instr) (s : State) : (∃ x, exec i s = .refused x) ↔ i.wellFormed = false := by
  constructor
  · rintro ⟨x, hrefused⟩
    by_contra hcommand
    obtain ⟨t, hnext⟩ := exec_of_wellFormed (eq_true_of_ne_false hcommand) s
    rw [hnext] at hrefused
    cases hrefused
  · exact fun h => ⟨_, exec_of_not_wellFormed h s⟩

/-! ### The step with a request pending -/

theorem step_of_pending {s : State} {r : Request} {rest : List Request} (h : s.pending = r :: rest) :
    step s = exec (decodeWord r.word) { s with pending := rest, caller := r.agent } := by
  simp [step, takeRequest, h]

/-! ### The obligations -/

/-- Settles O2: the ten instructions by `exec_of_not_wellFormed`; a step is the `exec` of the decoded word, which refuses
exactly the words that decode to no command. -/
theorem reservedWordsAreRefused : Obligations.ReservedWordsAreRefused := by
  refine ⟨fun s => ⟨?_, ?_, ?_, ?_, ?_, ?_, ?_, ?_, ?_, ?_⟩, fun s r rest h => ?step⟩
  case step => rw [step_of_pending h, exec_refused_iff, decodeWord_wellFormed_eq_false_iff]
  all_goals exact exec_of_not_wellFormed rfl s

end Sys2Proof.Machine
end

section
/-! PROOFS. The family of 40_transition_decoder.md: the decoder's rules, what one FEED does, and a run of FEEDs as the
assembly of the bits it emits. -/

namespace Sys2Proof.Machine

/-! ### The decoder (40_transition_decoder.md R50, R51) -/

/-- The level whose exit emits a bit: HIGH for 1, LOW for 0. -/
def bitLevel (b : Bit) : Level := if b then .high else .low

theorem emitted_eq_none_iff (prev l : Level) : emitted prev l = none ↔ l = prev ∨ prev = .idle := by
  rcases emitted_cases prev l with ⟨hemit, hrow⟩ | ⟨hemit, rfl, hne⟩ | ⟨hemit, rfl, hne⟩
  · simp [hemit, hrow]
  · simp [hemit, hne]
  · simp [hemit, hne]

theorem emitted_eq_some_iff (prev l : Level) (b : Bit) :
    emitted prev l = some b ↔ prev = bitLevel b ∧ l ≠ bitLevel b := by
  rcases emitted_cases prev l with ⟨hemit, rfl | rfl⟩ | ⟨hemit, rfl, hne⟩ | ⟨hemit, rfl, hne⟩
  · simp [hemit]
  · cases b <;> simp [hemit, bitLevel]
  · cases b <;> simp [hemit, bitLevel, hne]
  · cases b <;> simp [hemit, bitLevel, hne]

/-- One position of the bit-count law: a bit is emitted exactly on a transition out of a level other than IDLE. -/
theorem emitted_toList_length (prev l : Level) :
    (emitted prev l).toList.length = if l ≠ prev ∧ prev ≠ .idle then 1 else 0 := by
  by_cases hnone : emitted prev l = none
  · have hrow := (emitted_eq_none_iff prev l).1 hnone
    rw [if_neg (by tauto), hnone, Option.toList_none, List.length_nil]
  · have hrow := mt (emitted_eq_none_iff prev l).2 hnone
    obtain ⟨b, hsome⟩ := Option.ne_none_iff_exists'.1 hnone
    rw [if_pos (by tauto), hsome, Option.toList_some, List.length_singleton]

/-- The bit-count law (40_transition_decoder.md R55), position by position. -/
theorem emittedBits_length (prev : Level) (ls : List Level) :
    (emittedBits prev ls).length =
      (((prev :: ls).zip ls).filter fun pair => pair.2 ≠ pair.1 ∧ pair.1 ≠ .idle).length := by
  induction ls generalizing prev with
  | nil => rfl
  | cons l ls ih =>
    rw [emittedBits, List.length_append, emitted_toList_length, ih l, List.zip_cons_cons, List.filter_cons]
    by_cases htransition : l ≠ prev ∧ prev ≠ .idle
    · simp [htransition, Nat.add_comm]
    · simp [htransition]

/-! ### The assembler does not see `last_sample` (10_state.md R15) -/

@[simp] theorem setLastSample_setLastSample (l m : Level) (s : State) :
    setLastSample l (setLastSample m s) = setLastSample l s := rfl

theorem setLastSample_self (s : State) : setLastSample s.lastSample s = s := rfl

theorem assemble_setLastSample (b : Bit) (l : Level) (s : State) :
    assemble b (setLastSample l s) = setLastSample l (assemble b s) := by
  simp only [assemble, apply_ite (setLastSample l)]
  rfl

@[simp] theorem assembleAll_nil (s : State) : assembleAll [] s = s := rfl

@[simp] theorem assembleAll_cons (b : Bit) (bs : List Bit) (s : State) :
    assembleAll (b :: bs) s = assembleAll bs (assemble b s) := rfl

theorem assembleAll_append (bs cs : List Bit) (s : State) :
    assembleAll (bs ++ cs) s = assembleAll cs (assembleAll bs s) :=
  List.foldl_append

theorem assembleAll_setLastSample (bs : List Bit) (l : Level) (s : State) :
    assembleAll bs (setLastSample l s) = setLastSample l (assembleAll bs s) := by
  induction bs generalizing s with
  | nil => rfl
  | cons b bs ih => rw [assembleAll_cons, assembleAll_cons, assemble_setLastSample, ih]

/-! ### One FEED, and a run of FEEDs -/

theorem feed_eq_assembleAll (l : Level) (s : State) :
    feed l s = setLastSample l (assembleAll (emitted s.lastSample l).toList s) := by
  cases hemit : emitted s.lastSample l with
  | none => exact feed_of_emits_none hemit
  | some b => rw [feed_of_emits hemit, assemble_setLastSample]; rfl

/-- FEED of the level already held is no change at all (40_transition_decoder.md R50). -/
theorem feed_lastSample_self (s : State) : feed s.lastSample s = s := by
  rw [feed_of_emits_none ((emitted_eq_none_iff _ _).2 (.inl rfl)), setLastSample_self]

@[simp] theorem runSamples_nil (s : State) : runSamples [] s = .next s := rfl

@[simp] theorem runSamples_cons (l : Level) (ls : List Level) (s : State) :
    runSamples (l :: ls) s = runSamples ls (feed l s) := by
  simp [runSamples, runInstrs]

/-- A run of FEEDs assembles exactly the bits its samples emit, in order, and ends with the last sample. -/
theorem runSamples_eq (ls : List Level) (s : State) :
    runSamples ls s = .next (setLastSample ((s.lastSample :: ls).getLast (List.cons_ne_nil _ _))
      (assembleAll (emittedBits s.lastSample ls) s)) := by
  induction ls generalizing s with
  | nil => rfl
  | cons l ls ih =>
    have hbits : assembleAll (emittedBits l ls) (feed l s) =
        setLastSample l (assembleAll (emittedBits s.lastSample (l :: ls)) s) := by
      rw [feed_eq_assembleAll, assembleAll_setLastSample, emittedBits, assembleAll_append]
    simp only [runSamples_cons, ih, feed_lastSample, hbits, setLastSample_setLastSample,
      List.getLast_cons (List.cons_ne_nil l ls)]

/-- SENDBIT feeds the bit's level, then IDLE (30_encoding.md R49). -/
theorem runInstrs_sendBit (b : Bit) (s : State) : runInstrs (sendBit b) s = runSamples [bitLevel b, .idle] s := by
  cases b <;> rfl

/-! ### FEED's combined effect (43_public_api.md R86) -/

/-- What FEED leaves alone, whether or not it emits: everything but `last_sample`, the slots, the cursor and
`write_index`. -/
theorem feed_frame (l : Level) (s : State) :
    (feed l s).readIndex = s.readIndex ∧ (feed l s).rolloverMode = s.rolloverMode ∧
    (feed l s).pending = s.pending ∧ (feed l s).caller = s.caller ∧ (feed l s).results = s.results := by
  cases hemit : emitted s.lastSample l with
  | none => rw [feed_of_emits_none hemit]; exact ⟨rfl, rfl, rfl, rfl, rfl⟩
  | some b => rw [feed_of_emits hemit]; exact (assemble_frame b (setLastSample l s)).2

theorem slotBit_feed_of_not_written (l : Level) (s : State) (i : Fin 4) (p : Fin 56)
    (hother : ¬(i = s.writeIndex ∧ p = s.bitCursor)) : slotBit i p (feed l s) = slotBit i p s := by
  cases hemit : emitted s.lastSample l with
  | none => rw [feed_of_emits_none hemit]; rfl
  | some b => rw [feed_of_emits hemit, slotBit_assemble]; exact if_neg hother

/-- Below the commit the cursor advances and nothing is committed. -/
theorem assemble_of_room (b : Bit) {s : State} (hroom : s.bitCursor.val + 1 < s.rolloverMode.bitsPerCommit) :
    (assemble b s).bitCursor.val = s.bitCursor.val + 1 ∧ (assemble b s).writeIndex = s.writeIndex := by
  have hroll := rollover_nextCursor (Nat.lt_of_succ_lt hroom)
  rcases assemble_cases b s with ⟨hfull, -⟩ | ⟨-, h⟩
  · simp [hroll, hroom.ne] at hfull
  · have hbits : s.rolloverMode.bitsPerCommit ≤ 56 := by cases s.rolloverMode <;> decide
    have hcursor : (assemble b s).bitCursor = nextCursor s.bitCursor := by rw [h]
    have hindex : (assemble b s).writeIndex = s.writeIndex := by rw [h]; rfl
    rw [hcursor, nextCursor_val, Nat.mod_eq_of_lt (hroom.trans_le hbits)]
    exact ⟨rfl, hindex⟩

/-- The last bit of a frame commits it: the cursor starts again in the next slot. -/
theorem assemble_of_last (b : Bit) {s : State} (hlast : s.bitCursor.val + 1 = s.rolloverMode.bitsPerCommit) :
    (assemble b s).bitCursor = 0 ∧ (assemble b s).writeIndex = nextIndex s.writeIndex := by
  have hroll := rollover_nextCursor (Nat.lt_of_succ_le hlast.le)
  rcases assemble_cases b s with ⟨-, h⟩ | ⟨hroom, -⟩
  · rw [h]; exact ⟨rfl, rfl⟩
  · simp [hroll, hlast] at hroom

/-- The rows of R86 that emit nothing: a steady level, or a transition out of IDLE. -/
theorem feed_keeps_assembler {l : Level} {s : State} (hquiet : l = s.lastSample ∨ s.lastSample = .idle) :
    (feed l s).slots = s.slots ∧ (feed l s).bitCursor = s.bitCursor ∧ (feed l s).writeIndex = s.writeIndex := by
  rw [feed_of_emits_none ((emitted_eq_none_iff _ _).2 hquiet)]
  exact ⟨rfl, rfl, rfl⟩

/-- The rows of R86 that emit a bit: it stands at the write slot and the cursor, and the assembler advances or commits. -/
theorem feed_writes_emitted {l : Level} {s : State} {b : Bit} (hexit : s.lastSample = bitLevel b ∧ l ≠ bitLevel b) :
    slotBit s.writeIndex s.bitCursor (feed l s) = b ∧
    (s.bitCursor.val + 1 < s.rolloverMode.bitsPerCommit →
      (feed l s).bitCursor.val = s.bitCursor.val + 1 ∧ (feed l s).writeIndex = s.writeIndex) ∧
    (s.bitCursor.val + 1 = s.rolloverMode.bitsPerCommit →
      (feed l s).bitCursor = 0 ∧ (feed l s).writeIndex = nextIndex s.writeIndex) := by
  rw [feed_of_emits ((emitted_eq_some_iff _ _ _).2 hexit), assemble_setLastSample]
  refine ⟨?written, assemble_of_room b, assemble_of_last b⟩
  case written => exact (slotBit_assemble b s _ _).trans (if_pos ⟨rfl, rfl⟩)

/-! ### The obligations -/

/-- Settles O30: `runSamples_eq` for the run, `emittedBits_length` for the count, each by induction on the samples. -/
theorem bitCountLaw : Obligations.BitCountLaw :=
  fun ls s => ⟨runSamples_eq ls s, emittedBits_length s.lastSample ls⟩

/-- Settles O12: the frame of FEED, then its rows by whether the sample emits a bit. -/
theorem feedCombinedEffect : Obligations.FeedCombinedEffect := by
  intro l s
  obtain ⟨hread, hmode, hpending, hcaller, hresults⟩ := feed_frame l s
  refine ⟨feed l s, exec_feedOf l s, feed_lastSample l s, hread, hmode, hpending, hcaller, hresults,
    slotBit_feed_of_not_written l s, feed_keeps_assembler, fun b hemits => ?emits⟩
  case emits =>
    have hexit : s.lastSample = bitLevel b ∧ l ≠ bitLevel b := by cases b <;> exact hemits
    obtain ⟨hbit, hroom, hlast⟩ := feed_writes_emitted hexit
    exact ⟨hbit, hroom, fun h => ⟨(hlast h).1, congrArg Fin.val (hlast h).2⟩⟩

/-- Settles O34: SENDBIT is a run of two samples, so it assembles what they emit after the level held: the pending bit of
another data level, then the bit. -/
theorem sendBitEffect : Obligations.SendBitEffect := by
  intro b s pendingBit
  have hbits : emittedBits s.lastSample [bitLevel b, .idle] = pendingBit ++ [b] := by
    cases hlast : s.lastSample <;> cases b <;> simp only [pendingBit, hlast] <;> rfl
  rw [runInstrs_sendBit, runSamples_eq, hbits]
  rfl

/-- Settles O9: the decoder's answer is `emitted`, whose cases are R50 and R51; a FEED always writes its sample. -/
theorem transitionDecoderRules : Obligations.TransitionDecoderRules := by
  refine ⟨fun l s => ⟨rfl, fun hsteady => ?steady, fun hne hhigh => ?high, fun hne hlow => ?low, fun _ hidle => ?idle⟩,
    exec_feedOf_writes_lastSample, fun s => ?held⟩
  case steady => exact (emitted_eq_none_iff _ _).2 (.inl hsteady)
  case high => exact (emitted_eq_some_iff _ _ true).2 ⟨hhigh, fun h => hne (h.trans hhigh.symm)⟩
  case low => exact (emitted_eq_some_iff _ _ false).2 ⟨hlow, fun h => hne (h.trans hlow.symm)⟩
  case idle => exact (emitted_eq_none_iff _ _).2 (.inr hidle)
  case held => rw [exec_feedOf, feed_lastSample_self]

end Sys2Proof.Machine
end

section
/-! PROOFS. The family of 41_bit_assembler.md: where the bits of a stream go, what the two rollover modes share, and the
cursor's range. -/

namespace Sys2Proof.Machine

/-! ### One bit assembled, and the cursor's range (41_bit_assembler.md R60; 10_state.md R17) -/

theorem bitsPerCommit_eq (m : RolloverMode) : m.bitsPerCommit = 55 ∨ m.bitsPerCommit = 56 := by
  cases m with
  | reference => exact .inl rfl
  | corrected => exact .inr rfl

theorem bitsPerCommit_pos (m : RolloverMode) : 0 < m.bitsPerCommit := by
  have := bitsPerCommit_eq m
  omega

theorem bitsPerCommit_le (m : RolloverMode) : m.bitsPerCommit ≤ 56 := by
  have := bitsPerCommit_eq m
  omega

theorem nextIndex_ne (i : Fin 4) : nextIndex i ≠ i := by
  rw [ne_eq, Fin.ext_iff, nextIndex_val]
  omega

theorem occupiedCount_congr {s t : State} (hwrite : s.writeIndex = t.writeIndex) (hread : s.readIndex = t.readIndex) :
    occupiedCount s = occupiedCount t := by
  rw [occupiedCount, occupiedCount, hwrite, hread]

/-- Where the rollover stands, in every state: the cursor of 55 under REFERENCE, which no run reaches, included. -/
theorem rollover_nextCursor_iff (m : RolloverMode) (c : Fin 56) :
    rollover m (nextCursor c) = true ↔ match m with
      | .reference => (c.val + 1) % 56 = 55
      | .corrected => (c.val + 1) % 56 = 0 := by
  cases m with
  | reference => exact beq_iff_eq
  | corrected => exact beq_iff_eq

theorem assemble_keeps_inv (b : Bit) {s : State} (hinv : s.Inv) : (assemble b s).Inv := by
  obtain ⟨-, -, hmode, -⟩ := assemble_frame b s
  have hpos := bitsPerCommit_pos s.rolloverMode
  rw [State.Inv, hmode]
  rcases Nat.lt_or_eq_of_le (Nat.succ_le_of_lt hinv) with hroom | hlast
  · rwa [(assemble_of_room b hroom).1]
  · rwa [(assemble_of_last b hlast).1]

theorem feed_keeps_inv (l : Level) {s : State} (hinv : s.Inv) : (feed l s).Inv := by
  cases hemit : emitted s.lastSample l with
  | none => rw [feed_of_emits_none hemit]; exact hinv
  | some b => rw [feed_of_emits hemit]; exact assemble_keeps_inv b hinv

/-- A pop writes `read_index` alone. -/
theorem pop_frame (s : State) :
    (pop s).2.bitCursor = s.bitCursor ∧ (pop s).2.rolloverMode = s.rolloverMode ∧ (pop s).2.slots = s.slots := by
  rcases pop_cases s with ⟨-, h⟩ | ⟨-, h⟩
  · rw [h]; exact ⟨rfl, rfl, rfl⟩
  · rw [h]; exact ⟨rfl, rfl, rfl⟩

theorem exec_keeps_inv {i : Instr} {s t : State} (hinv : s.Inv) (hexec : exec i s = .next t) :
    t.Inv ∧ t.rolloverMode = s.rolloverMode := by
  rcases exec_cases hexec with ⟨l, -, rfl⟩ | ⟨-, rfl⟩ | ⟨-, rfl⟩ | ⟨-, rfl⟩
  · obtain ⟨-, hmode, -⟩ := feed_frame l s
    exact ⟨feed_keeps_inv l hinv, hmode⟩
  · exact ⟨bitsPerCommit_pos s.rolloverMode, rfl⟩
  · exact ⟨hinv, rfl⟩
  · obtain ⟨hcursor, hmode, -⟩ := pop_frame s
    refine ⟨?_, hmode⟩
    rwa [State.Inv, deliver_bitCursor, deliver_rolloverMode, hcursor, hmode]

/-- Only a FEED that emits a bit changes a slot, and only the bit at the write slot and the cursor (R57, R58). -/
theorem exec_changes_written_bit {j : Instr} {s t : State} {i : Fin 4} {p : Fin 56} (hexec : exec j s = .next t)
    (hchange : slotBit i p t ≠ slotBit i p s) :
    i = s.writeIndex ∧ p = s.bitCursor ∧ ∃ l, j = feedOf l ∧ emitted s.lastSample l = some (slotBit i p t) := by
  have hslots : t.slots ≠ s.slots := fun h => hchange (congrArg (frameBit · p) (readSlot_congr h i))
  rcases exec_cases hexec with ⟨l, rfl, rfl⟩ | ⟨-, rfl⟩ | ⟨-, rfl⟩ | ⟨-, rfl⟩
  · cases hemit : emitted s.lastSample l with
    | none => rw [feed_of_emits_none hemit] at hslots; exact absurd rfl hslots
    | some b =>
      obtain ⟨rfl, rfl⟩ := not_not.1 fun hother => hchange (slotBit_feed_of_not_written l s i p hother)
      obtain ⟨hwritten, -⟩ := feed_writes_emitted ((emitted_eq_some_iff _ _ _).1 hemit)
      exact ⟨rfl, rfl, l, rfl, by rw [hemit, hwritten]⟩
  · exact absurd rfl hslots
  · exact absurd rfl hslots
  · obtain ⟨-, -, hkept⟩ := pop_frame s
    exact absurd hkept hslots

/-! ### A run of steps -/

/-- A run that ends in a state took its first step, and the rest of the run goes on from there. -/
theorem run_succ_eq_next {M : Host.Core} {n : Nat} {s t : M.State} (h : M.run (n + 1) s = .next t) :
    ∃ u, M.step s = .next u ∧ M.run n u = .next t := by
  unfold Host.Core.run at h
  split at h
  next u hstep => exact ⟨u, hstep, h⟩
  next => cases h
  next => cases h

/-! ### A list of bits assembled from a frame start (R60, R64) -/

/-- What the assembly of a list of bits leaves alone. -/
theorem assembleAll_frame (bs : List Bit) (s : State) :
    (assembleAll bs s).lastSample = s.lastSample ∧ (assembleAll bs s).readIndex = s.readIndex ∧
    (assembleAll bs s).rolloverMode = s.rolloverMode ∧ (assembleAll bs s).pending = s.pending ∧
    (assembleAll bs s).caller = s.caller ∧ (assembleAll bs s).results = s.results := by
  induction bs generalizing s with
  | nil => exact ⟨rfl, rfl, rfl, rfl, rfl, rfl⟩
  | cons b bs ih =>
    obtain ⟨h1, h2, h3, h4, h5, h6⟩ := assemble_frame b s
    rw [assembleAll_cons, ← h1, ← h2, ← h3, ← h4, ← h5, ← h6]
    exact ih _

theorem assembleAll_snoc (bs : List Bit) (b : Bit) (s : State) :
    assembleAll (bs ++ [b]) s = assemble b (assembleAll bs s) := assembleAll_append bs [b] s

/-- The slot of bit `k` of a stream that begins at a frame start `s`. -/
def slotOfBit (s : State) (k : Nat) : Fin 4 := Fin.ofNat 4 (s.writeIndex.val + k / s.rolloverMode.bitsPerCommit)

/-- The frame position of bit `k` of a stream that begins at a frame start. -/
def posOfBit (m : RolloverMode) (k : Nat) : Fin 56 := Fin.ofNat 56 (k % m.bitsPerCommit)

theorem slotOfBit_val (s : State) (k : Nat) :
    (slotOfBit s k).val = (s.writeIndex.val + k / s.rolloverMode.bitsPerCommit) % 4 := rfl

theorem posOfBit_val (m : RolloverMode) (k : Nat) : (posOfBit m k).val = k % m.bitsPerCommit :=
  Nat.mod_eq_of_lt ((Nat.mod_lt k (bitsPerCommit_pos m)).trans_le (bitsPerCommit_le m))

/-- The bits of the first frame go to the write slot. -/
theorem slotOfBit_of_lt {s : State} {k : Nat} (hk : k < s.rolloverMode.bitsPerCommit) :
    slotOfBit s k = s.writeIndex := by
  rw [Fin.ext_iff, slotOfBit_val, Nat.div_eq_of_lt hk, Nat.add_zero, Nat.mod_eq_of_lt s.writeIndex.isLt]

/-- The bits of the second frame go to the next slot. -/
theorem slotOfBit_of_second_frame {s : State} {k : Nat} (hge : s.rolloverMode.bitsPerCommit ≤ k)
    (hlt : k < 2 * s.rolloverMode.bitsPerCommit) : slotOfBit s k = nextIndex s.writeIndex := by
  have hdiv : k / s.rolloverMode.bitsPerCommit = 1 := Nat.div_eq_of_lt_le (by omega) (by omega)
  rw [Fin.ext_iff, slotOfBit_val, hdiv, nextIndex_val]

theorem posOfBit_val_of_lt {m : RolloverMode} {k : Nat} (hk : k < m.bitsPerCommit) : (posOfBit m k).val = k := by
  rw [posOfBit_val, Nat.mod_eq_of_lt hk]

/-- Two bits share a place only when the writer has gone round all four slots between them. -/
theorem place_ne_of_lt (s : State) {k n : Nat} (hkn : k < n) (hround : n < k + 4 * s.rolloverMode.bitsPerCommit) :
    ¬(slotOfBit s k = slotOfBit s n ∧ posOfBit s.rolloverMode k = posOfBit s.rolloverMode n) := by
  rintro ⟨hslot, hpos⟩
  rw [Fin.ext_iff, slotOfBit_val, slotOfBit_val] at hslot
  rw [Fin.ext_iff, posOfBit_val, posOfBit_val] at hpos
  rcases bitsPerCommit_eq s.rolloverMode with hT | hT
  · rw [hT] at hround hslot hpos; omega
  · rw [hT] at hround hslot hpos; omega

/-- The next place with room in the frame: the same slot, one position on. -/
theorem place_succ_of_room {s : State} {n : Nat}
    (hroom : n % s.rolloverMode.bitsPerCommit + 1 < s.rolloverMode.bitsPerCommit) :
    slotOfBit s (n + 1) = slotOfBit s n ∧
    (posOfBit s.rolloverMode (n + 1)).val = n % s.rolloverMode.bitsPerCommit + 1 := by
  rw [Fin.ext_iff, slotOfBit_val, slotOfBit_val, posOfBit_val]
  rcases bitsPerCommit_eq s.rolloverMode with hT | hT
  · rw [hT] at hroom ⊢; omega
  · rw [hT] at hroom ⊢; omega

/-- The next place at the frame's last bit: the start of the next slot. -/
theorem place_succ_of_last {s : State} {n : Nat}
    (hlast : n % s.rolloverMode.bitsPerCommit + 1 = s.rolloverMode.bitsPerCommit) :
    slotOfBit s (n + 1) = nextIndex (slotOfBit s n) ∧ posOfBit s.rolloverMode (n + 1) = 0 := by
  rw [Fin.ext_iff, Fin.ext_iff, nextIndex_val, slotOfBit_val, slotOfBit_val, posOfBit_val, Fin.val_zero]
  rcases bitsPerCommit_eq s.rolloverMode with hT | hT
  · rw [hT] at hlast ⊢; omega
  · rw [hT] at hlast ⊢; omega

/-- After `n` bits the write slot and the cursor are the place of bit `n`. -/
theorem assembleAll_place (bs : List Bit) {s : State} (hstart : s.bitCursor = 0) :
    (assembleAll bs s).writeIndex = slotOfBit s bs.length ∧
    (assembleAll bs s).bitCursor = posOfBit s.rolloverMode bs.length := by
  have hpos := bitsPerCommit_pos s.rolloverMode
  induction bs using List.reverseRecOn with
  | nil => exact ⟨(slotOfBit_of_lt hpos).symm, hstart.trans (Fin.ext (posOfBit_val_of_lt hpos).symm)⟩
  | append_singleton bs b ih =>
    obtain ⟨hslot, hcursor⟩ := ih
    obtain ⟨-, -, hmode, -⟩ := assembleAll_frame bs s
    have hat : (assembleAll bs s).bitCursor.val = bs.length % s.rolloverMode.bitsPerCommit := by
      rw [hcursor, posOfBit_val]
    have hlt := Nat.mod_lt bs.length hpos
    rw [assembleAll_snoc, List.length_append, List.length_singleton]
    rcases Nat.lt_or_eq_of_le (Nat.succ_le_of_lt hlt) with hroom | hlast
    · obtain ⟨hc, hw⟩ := assemble_of_room b (s := assembleAll bs s) (by rwa [hat, hmode])
      obtain ⟨hsame, hnext⟩ := place_succ_of_room hroom
      exact ⟨by rw [hw, hslot, hsame], Fin.ext (by rw [hc, hat, hnext])⟩
    · obtain ⟨hc, hw⟩ := assemble_of_last b (s := assembleAll bs s) (by rwa [hat, hmode])
      obtain ⟨hnext, hzero⟩ := place_succ_of_last hlast
      exact ⟨by rw [hw, hslot, hnext], by rw [hc, hzero]⟩

/-- One more bit: it is written at its place, and every other bit is as it was. -/
theorem slotBit_assembleAll_snoc (bs : List Bit) (b : Bit) {s : State} (hstart : s.bitCursor = 0) (i : Fin 4)
    (p : Fin 56) :
    slotBit i p (assembleAll (bs ++ [b]) s) =
      if i = slotOfBit s bs.length ∧ p = posOfBit s.rolloverMode bs.length then b
      else slotBit i p (assembleAll bs s) := by
  obtain ⟨hslot, hcursor⟩ := assembleAll_place bs hstart
  rw [assembleAll_snoc, slotBit_assemble, hslot, hcursor]

/-- A bit stands at its place until the writer has gone round the four slots. -/
theorem slotBit_assembleAll_at (bs : List Bit) {s : State} (hstart : s.bitCursor = 0) (k : Nat) (hk : k < bs.length)
    (hround : bs.length ≤ k + 4 * s.rolloverMode.bitsPerCommit) :
    slotBit (slotOfBit s k) (posOfBit s.rolloverMode k) (assembleAll bs s) = bs[k] := by
  induction bs using List.reverseRecOn with
  | nil => exact absurd hk (Nat.not_lt_zero k)
  | append_singleton bs b ih =>
    rw [List.length_append, List.length_singleton] at hk hround
    rw [slotBit_assembleAll_snoc bs b hstart]
    rcases Nat.lt_or_eq_of_le (Nat.le_of_lt_succ hk) with hearlier | rfl
    · rw [if_neg (place_ne_of_lt s hearlier hround), List.getElem_append_left hearlier]
      exact ih hearlier (Nat.le_of_succ_le hround)
    · rw [if_pos ⟨rfl, rfl⟩, List.getElem_concat_length rfl]

/-- A bit that is no bit's place keeps its value. -/
theorem slotBit_assembleAll_of_no_place (bs : List Bit) {s : State} (hstart : s.bitCursor = 0) {i : Fin 4} {p : Fin 56}
    (hno : ∀ k < bs.length, ¬(i = slotOfBit s k ∧ p = posOfBit s.rolloverMode k)) :
    slotBit i p (assembleAll bs s) = slotBit i p s := by
  induction bs using List.reverseRecOn with
  | nil => rfl
  | append_singleton bs b ih =>
    rw [List.length_append, List.length_singleton] at hno
    rw [slotBit_assembleAll_snoc bs b hstart, if_neg (hno _ (Nat.lt_succ_self _))]
    exact ih fun k hk => hno k (Nat.lt_succ_of_lt hk)

/-- Positions from `T` on are no bit's place: under REFERENCE, position 55. -/
theorem slotBit_assembleAll_of_le (bs : List Bit) {s : State} (hstart : s.bitCursor = 0) (i : Fin 4) {p : Fin 56}
    (hp : s.rolloverMode.bitsPerCommit ≤ p.val) : slotBit i p (assembleAll bs s) = slotBit i p s := by
  refine slotBit_assembleAll_of_no_place bs hstart fun k _ ⟨_, hpos⟩ => ?_
  have hlt := Nat.mod_lt k (bitsPerCommit_pos s.rolloverMode)
  rw [hpos, posOfBit_val] at hp
  omega

/-- Within one frame only the write slot is written. -/
theorem readSlot_assembleAll_of_ne (bs : List Bit) {s : State} (hstart : s.bitCursor = 0)
    (hone : bs.length ≤ s.rolloverMode.bitsPerCommit) {i : Fin 4} (hi : i ≠ s.writeIndex) :
    readSlot i (assembleAll bs s) = readSlot i s :=
  frame_ext fun _ => slotBit_assembleAll_of_no_place bs hstart fun _ hk ⟨hslot, _⟩ =>
    hi (hslot.trans (slotOfBit_of_lt (hk.trans_le hone)))

/-- The write slot within its frame: the bits so far, and above them what it held. -/
theorem slotBit_assembleAll_writeSlot (bs : List Bit) {s : State} (hstart : s.bitCursor = 0)
    (hone : bs.length ≤ s.rolloverMode.bitsPerCommit) (p : Fin 56) :
    slotBit s.writeIndex p (assembleAll bs s) = (bs[p.val]?).getD (slotBit s.writeIndex p s) := by
  by_cases hp : p.val < bs.length
  · have hT := hp.trans_le hone
    have hpos : posOfBit s.rolloverMode p.val = p := Fin.ext (posOfBit_val_of_lt hT)
    have hbit := slotBit_assembleAll_at bs hstart p.val hp (by omega)
    rw [slotOfBit_of_lt hT, hpos] at hbit
    rw [hbit, List.getElem?_eq_getElem hp, Option.getD_some]
  · rw [List.getElem?_eq_none (Nat.le_of_not_lt hp), Option.getD_none]
    refine slotBit_assembleAll_of_no_place bs hstart fun k hk ⟨_, hpos⟩ => hp ?_
    rwa [hpos, posOfBit_val_of_lt (hk.trans_le hone)]

/-- A whole frame from a frame start: the next frame starts, and only the slots and `write_index` differ. -/
theorem assembleAll_whole_frame (bs : List Bit) {s : State} (hstart : s.bitCursor = 0)
    (hwhole : bs.length = s.rolloverMode.bitsPerCommit) :
    assembleAll bs s = { s with slots := (assembleAll bs s).slots, writeIndex := nextIndex s.writeIndex } := by
  obtain ⟨hlast, hread, hmode, hpending, hcaller, hresults⟩ := assembleAll_frame bs s
  obtain ⟨hslot, hcursor⟩ := assembleAll_place bs hstart
  have hpos := bitsPerCommit_pos s.rolloverMode
  have hzero : posOfBit s.rolloverMode bs.length = s.bitCursor := by
    rw [hstart, hwhole, Fin.ext_iff, posOfBit_val, Nat.mod_self, Fin.val_zero]
  rw [slotOfBit_of_second_frame hwhole.ge (by omega)] at hslot
  rw [hzero] at hcursor
  rw [← hlast, ← hcursor, ← hslot, ← hread, ← hmode, ← hpending, ← hcaller, ← hresults]

/-! ### The two modes (R62, R63, R67) -/

/-- The state with the mode replaced. -/
def inMode (m : RolloverMode) (s : State) : State := { s with rolloverMode := m }

/-- Below position 54 the assembler does the same in both modes. -/
theorem assemble_inMode (m : RolloverMode) (b : Bit) {s : State} (hbelow : s.bitCursor.val + 1 < 55) :
    assemble b (inMode m s) = inMode m (assemble b s) := by
  have hroll (m' : RolloverMode) : rollover m' (nextCursor s.bitCursor) = false := by
    have hT := bitsPerCommit_eq m'
    rw [rollover_nextCursor (by omega), decide_eq_false (by omega)]
  unfold assemble inMode
  simp only [hroll, Bool.false_eq_true, if_false]
  rfl

/-- What one bit does to the slots does not depend on the mode. -/
theorem assemble_slots_inMode (m : RolloverMode) (b : Bit) (s : State) :
    (assemble b (inMode m s)).slots = (assemble b s).slots :=
  (assemble_slots b (inMode m s)).trans (assemble_slots b s).symm

/-- Up to 54 bits the two modes run alike. -/
theorem assembleAll_inMode (m : RolloverMode) (bs : List Bit) {s : State} (hstart : s.bitCursor = 0)
    (hlen : bs.length < 55) : assembleAll bs (inMode m s) = inMode m (assembleAll bs s) := by
  induction bs using List.reverseRecOn with
  | nil => rfl
  | append_singleton bs b ih =>
    rw [List.length_append, List.length_singleton] at hlen
    have hT := bitsPerCommit_eq s.rolloverMode
    have hcursor : (assembleAll bs s).bitCursor.val = bs.length := by
      rw [(assembleAll_place bs hstart).2, posOfBit_val_of_lt (by omega)]
    rw [assembleAll_snoc, assembleAll_snoc, ih (by omega), assemble_inMode m b (by omega)]

/-- Up to 55 bits the two modes write the same bits to the same places. -/
theorem assembleAll_slots_inMode (m : RolloverMode) (bs : List Bit) {s : State} (hstart : s.bitCursor = 0)
    (hlen : bs.length ≤ 55) : (assembleAll bs (inMode m s)).slots = (assembleAll bs s).slots := by
  induction bs using List.reverseRecOn with
  | nil => rfl
  | append_singleton bs b _ =>
    rw [List.length_append, List.length_singleton] at hlen
    rw [assembleAll_snoc, assembleAll_snoc, assembleAll_inMode m bs hstart (by omega), assemble_slots_inMode]

/-! ### Lists of commands, and the frames they send (30_encoding.md R49) -/

theorem runInstrs_cons_of_next {i : Instr} {s u : State} (h : exec i s = .next u) (is : List Instr) :
    runInstrs (i :: is) s = runInstrs is u := by
  rw [runInstrs, h]

theorem runInstrs_append {is : List Instr} {s t : State} (h : runInstrs is s = .next t) (js : List Instr) :
    runInstrs (is ++ js) s = runInstrs js t := by
  induction is generalizing s with
  | nil => cases h; rfl
  | cons i is ih =>
    rw [List.cons_append]
    cases hexec : exec i s with
    | next u =>
      rw [runInstrs_cons_of_next hexec] at h ⊢
      exact ih h
    | fault r => rw [runInstrs, hexec] at h; cases h
    | refused r => rw [runInstrs, hexec] at h; cases h

/-- From IDLE, SENDBIT assembles its bit and nothing else. -/
theorem runInstrs_sendBit_of_idle (b : Bit) {s : State} (hidle : s.lastSample = .idle) :
    runInstrs (sendBit b) s = .next (assemble b s) := by
  have hbits : emittedBits s.lastSample [bitLevel b, .idle] = [b] := by rw [hidle]; cases b <;> rfl
  have hlast : Level.idle = (assemble b s).lastSample := by rw [(assemble_frame b s).1, hidle]
  rw [runInstrs_sendBit, runSamples_eq, hbits]
  exact congrArg Host.Outcome.next ((congrArg (setLastSample · _) hlast).trans (setLastSample_self _))

theorem runInstrs_sendBits (bs : List Bit) {s : State} (hidle : s.lastSample = .idle) :
    runInstrs (sendBits bs) s = .next (assembleAll bs s) := by
  induction bs generalizing s with
  | nil => rfl
  | cons b bs ih =>
    have hidle' : (assemble b s).lastSample = .idle := by rw [(assemble_frame b s).1, hidle]
    exact (runInstrs_append (runInstrs_sendBit_of_idle b hidle) _).trans (ih hidle')

/-- SENDFRAME sends the bits of its bytes, in order. -/
theorem sendFrame_eq_sendBits (b0 b1 b2 b3 b4 b5 b6 : Byte) :
    sendFrame b0 b1 b2 b3 b4 b5 b6 = sendBits ([b0, b1, b2, b3, b4, b5, b6].flatMap byteBits) := by
  simp [sendFrame, sendByte, sendBits]

theorem length_flatMap_byteBits (vs : List Byte) : (vs.flatMap byteBits).length = 8 * vs.length := by
  induction vs with
  | nil => rfl
  | cons v vs ih =>
    have hv : (byteBits v).length = 8 := rfl
    rw [List.flatMap_cons, List.length_append, List.length_cons, ih, hv]
    omega

theorem byteBits_getElem? (v : Byte) {k : Nat} (hk : k < 8) : (byteBits v)[k]? = some (v.getLsbD k) := by
  interval_cases k <;> rfl

/-- Bit `8j + k` of a list of bytes is bit `k` of byte `j` (20_memory.md R29). -/
theorem flatMap_byteBits_getElem? (vs : List Byte) (j : Nat) {k : Nat} (hk : k < 8) :
    (vs.flatMap byteBits)[8 * j + k]? = (vs[j]?).map (·.getLsbD k) := by
  induction vs generalizing j with
  | nil => rfl
  | cons v vs ih =>
    have hv : (byteBits v).length = 8 := rfl
    rw [List.flatMap_cons]
    cases j with
    | zero =>
      rw [List.getElem?_append_left (by omega), Nat.mul_zero, Nat.zero_add, byteBits_getElem? v hk]
      rfl
    | succ j =>
      rw [List.getElem?_append_right (by omega), List.getElem?_cons_succ, ← ih j]
      congr 1
      omega

/-- Seven bytes assembled from a CORRECTED frame start are the bytes of the write slot. -/
theorem frameByte_assembleAll_byteBits {vs : List Byte} (hlen : vs.length = 7) {s : State}
    (hmode : s.rolloverMode = .corrected) (hstart : s.bitCursor = 0) (j : Fin 7) :
    frameByte (readSlot s.writeIndex (assembleAll (vs.flatMap byteBits) s)) j = vs[j.val] := by
  have hone : (vs.flatMap byteBits).length ≤ s.rolloverMode.bitsPerCommit := by
    rw [length_flatMap_byteBits, hlen, hmode]; exact le_rfl
  refine BitVec.eq_of_getLsbD_eq fun k hk => ?_
  have hp : 8 * j.val + k < 56 := by omega
  have hbit := slotBit_assembleAll_writeSlot _ hstart hone ⟨8 * j.val + k, hp⟩
  rw [flatMap_byteBits_getElem? vs j.val hk, List.getElem?_eq_getElem (by omega)] at hbit
  rw [frameByte_getLsbD _ j hk, BitVec.getLsbD_eq_getElem hp]
  exact hbit

/-! ### The obligations -/

/-- Settles O11: the assembler's two cases, by the rollover of the candidate cursor. -/
theorem emittedBitIsAssembled : Obligations.EmittedBitIsAssembled := by
  intro l s b hemit full
  have hfull : rollover s.rolloverMode (nextCursor s.bitCursor) = true ↔ full :=
    rollover_nextCursor_iff s.rolloverMode s.bitCursor
  have hwritten := (feed_writes_emitted ((emitted_eq_some_iff _ _ _).1 hemit)).1
  refine ⟨feed l s, exec_feedOf l s, hwritten, slotBit_feed_of_not_written l s, ?commit, ?advance, feed_lastSample l s,
    feed_frame l s⟩
  case commit =>
    intro h
    rcases assemble_cases b (setLastSample l s) with ⟨-, hcase⟩ | ⟨hroll, -⟩
    · rw [feed_of_emits hemit, hcase]; exact ⟨rfl, rfl⟩
    · exact absurd (hfull.2 h) (Bool.eq_false_iff.1 hroll)
  case advance =>
    intro h
    rcases assemble_cases b (setLastSample l s) with ⟨hroll, -⟩ | ⟨-, hcase⟩
    · exact absurd (hfull.1 hroll) h
    · rw [feed_of_emits hemit, hcase]; exact ⟨rfl, rfl⟩

/-- Settles O22: a step is the `exec` of its command in a state with the same registers and slots. -/
theorem slotsChangeOneBitAtATime : Obligations.SlotsChangeOneBitAtATime := by
  intro s t i p hstep hchange
  rcases step_cases s with ⟨-, hidle⟩ | ⟨r, rest, hpending, hrun⟩
  · obtain rfl : s = t := Host.Outcome.next.inj (hidle.symm.trans hstep)
    exact absurd rfl hchange
  · obtain ⟨hi, hp, l, hword, hemit⟩ := exec_changes_written_bit (hrun.symm.trans hstep) hchange
    exact ⟨hi, hp, l, r, rest, hpending, hword, hemit⟩

/-- Settles O23: command by command, and with none pending the state is the same. -/
theorem stepKeepsTheInvariant : Obligations.StepKeepsTheInvariant := by
  intro s t hinv hstep
  rcases step_cases s with ⟨-, hidle⟩ | ⟨r, rest, -, hrun⟩
  · obtain rfl : s = t := Host.Outcome.next.inj (hidle.symm.trans hstep)
    exact ⟨hinv, rfl⟩
  · exact exec_keeps_inv (s := { s with pending := rest, caller := r.agent }) hinv (hrun.symm.trans hstep)

/-- Settles O25: by induction on the steps; each changes at most the bit at the cursor, which the invariant keeps
below 55. -/
theorem referenceNeverWritesPosition55 : Obligations.ReferenceNeverWritesPosition55 := by
  intro n
  induction n with
  | zero =>
    intro s t i _ _ hrun
    obtain rfl : s = t := Host.Outcome.next.inj hrun
    rfl
  | succ n ih =>
    intro s t i hinv hmode hrun
    obtain ⟨u, hstep, hrest⟩ := run_succ_eq_next hrun
    obtain ⟨hinv', hmode'⟩ := stepKeepsTheInvariant s u hinv hstep
    have hfirst : slotBit i 55 u = slotBit i 55 s := by
      by_contra hchange
      obtain ⟨-, hcursor, -⟩ := slotsChangeOneBitAtATime s u i 55 hstep hchange
      rw [State.Inv, hmode, ← hcursor] at hinv
      exact absurd hinv (by decide)
    exact (ih u t i hinv' (hmode'.trans hmode) hrest).trans hfirst

/-- Settles O31: the run assembles the emitted bits; each goes to its place. -/
theorem whereEveryBitGoes : Obligations.WhereEveryBitGoes := by
  intro ls s hstart e T
  obtain ⟨hslot, hcursor⟩ := assembleAll_place e hstart
  exact ⟨_, runSamples_eq ls s, congrArg Fin.val hslot, (congrArg Fin.val hcursor).trans (posOfBit_val _ _),
    slotBit_assembleAll_at e hstart, fun i _ hp => slotBit_assembleAll_of_le e hstart i hp⟩

/-- Settles O32: with fewer bits than a frame takes, every bit's place is in the write slot, at its own number. -/
theorem frameInProgress : Obligations.FrameInProgress := by
  intro ls s hstart e hlt
  obtain ⟨hslot, hcursor⟩ := assembleAll_place e hstart
  obtain ⟨-, hread, -⟩ := assembleAll_frame e s
  have hindex : (assembleAll e s).writeIndex = s.writeIndex := hslot.trans (slotOfBit_of_lt hlt)
  exact ⟨_, runSamples_eq ls s, hindex, (congrArg Fin.val hcursor).trans (posOfBit_val_of_lt hlt),
    slotBit_assembleAll_writeSlot e hstart hlt.le, fun i hi => readSlot_assembleAll_of_ne e hstart hlt.le hi,
    occupiedCount_congr hindex hread⟩

/-- Settles O33: below 55 bits the modes run alike, and at 55 they have written alike; the places of bits 55 and 56 in
each mode give the rest. -/
theorem whereTheModesPart : Obligations.WhereTheModesPart := by
  intro ls s hstart e
  obtain ⟨slotR, cursorR⟩ := assembleAll_place e (s := inMode .reference s) hstart
  obtain ⟨slotC, cursorC⟩ := assembleAll_place e (s := inMode .corrected s) hstart
  have hTR : (inMode .reference s).rolloverMode.bitsPerCommit = 55 := rfl
  have hTC : (inMode .corrected s).rolloverMode.bitsPerCommit = 56 := rfl
  refine ⟨_, _, runSamples_eq ls (inMode .reference s), runSamples_eq ls (inMode .corrected s), fun hlen => ?below,
    fun hlen => ?at55, fun hlen => ?at56⟩
  case below =>
    have halike : assembleAll e (inMode .corrected s) = inMode .corrected (assembleAll e (inMode .reference s)) :=
      assembleAll_inMode .corrected e (s := inMode .reference s) hstart hlen
    exact ⟨congrArg (setLastSample _) halike, slotR.trans (slotOfBit_of_lt hlen),
      (congrArg Fin.val cursorR).trans (posOfBit_val_of_lt hlen)⟩
  case at55 =>
    have zeroR : posOfBit .reference e.length = 0 := by rw [hlen]; rfl
    have lastC : posOfBit .corrected e.length = 55 := by rw [hlen]; rfl
    exact ⟨assembleAll_slots_inMode .corrected e (s := inMode .reference s) hstart hlen.le,
      slotR.trans (slotOfBit_of_second_frame (by omega) (by omega)), cursorR.trans zeroR,
      slotC.trans (slotOfBit_of_lt (by omega)), cursorC.trans lastC⟩
  case at56 =>
    have oneR : posOfBit .reference e.length = 1 := by rw [hlen]; rfl
    have zeroC : posOfBit .corrected e.length = 0 := by rw [hlen]; rfl
    have slot55R : slotOfBit (inMode .reference s) 55 = nextIndex s.writeIndex :=
      slotOfBit_of_second_frame (by omega) (by omega)
    have pos55R : posOfBit (inMode .reference s).rolloverMode 55 = 0 := by
      rw [Fin.ext_iff, posOfBit_val, hTR]; rfl
    have slot55C : slotOfBit (inMode .corrected s) 55 = s.writeIndex := slotOfBit_of_lt (by omega)
    have bit55R := slotBit_assembleAll_at e (s := inMode .reference s) hstart 55 (by omega) (by omega)
    have bit55C := slotBit_assembleAll_at e (s := inMode .corrected s) hstart 55 (by omega) (by omega)
    rw [slot55R, pos55R] at bit55R
    rw [slot55C] at bit55C
    have keptR := slotBit_assembleAll_of_le e (s := inMode .reference s) hstart s.writeIndex (p := 55) le_rfl
    have keptC := readSlot_assembleAll_of_ne e (s := inMode .corrected s) hstart hlen.le (nextIndex_ne s.writeIndex)
    exact ⟨slotR.trans (slotOfBit_of_second_frame (by omega) (by omega)), cursorR.trans oneR,
      slotC.trans (slotOfBit_of_second_frame (by omega) (by omega)), cursorC.trans zeroC, bit55R, keptR, bit55C,
      congrArg (frameBit · 0) keptC⟩

/-- Settles O35: SENDFRAME assembles the 56 bits of its bytes, a whole frame. -/
theorem correctedRoundTrip : Obligations.CorrectedRoundTrip := by
  intro b0 b1 b2 b3 b4 b5 b6 s hmode hstart hidle
  let bits := [b0, b1, b2, b3, b4, b5, b6].flatMap byteBits
  have hlen : bits.length = 56 := length_flatMap_byteBits _
  have hone : bits.length = s.rolloverMode.bitsPerCommit := by rw [hlen, hmode]; rfl
  have hbyte := frameByte_assembleAll_byteBits (vs := [b0, b1, b2, b3, b4, b5, b6]) rfl hmode hstart
  refine ⟨assembleAll bits s, ?run, ?same, fun i hi => readSlot_assembleAll_of_ne bits hstart hone.le hi,
    hbyte 0, hbyte 1, hbyte 2, hbyte 3, hbyte 4, hbyte 5, hbyte 6⟩
  case run => rw [sendFrame_eq_sendBits, runInstrs_sendBits bits hidle]
  case same => exact assembleAll_whole_frame bits hstart hone

/-- Settles O39: the commits since equal indices, modulo 4, are the distance of the indices. -/
theorem countGoesRoundWithoutPops : Obligations.CountGoesRoundWithoutPops := by
  intro ls s hstart hequal
  have hrun := runSamples_eq ls s
  generalize emittedBits s.lastSample ls = e at hrun ⊢
  obtain ⟨-, hread, -, -, hcaller, hresults⟩ := assembleAll_frame e s
  obtain ⟨hslot, -⟩ := assembleAll_place e hstart
  refine ⟨_, occupiedCount (assembleAll e s), runInstrs_append hrun [.complete], ?result, ?count⟩
  case result =>
    rw [deliver_results, setLastSample_results, setLastSample_caller, occupiedCount_setLastSample, hresults, hcaller]
  case count =>
    rw [occupiedCount_val, hslot, hread, slotOfBit_val, hequal]
    have := s.readIndex.isLt
    omega

end Sys2Proof.Machine
end

section
/-! PROOFS. The family of 42_ring_buffer.md: the ring as a queue of unread frames, who moves its indices, and that only
their distance shows. -/

namespace Sys2Proof.Machine

/-! ### Index arithmetic and the occupied count (42_ring_buffer.md R68, R71) -/

theorem nextIndex_eq_add_one (i : Fin 4) : nextIndex i = i + 1 := by revert i; decide

/-- The occupied count is the distance of the indices round the ring. -/
theorem occupiedCount_eq_sub (s : State) : occupiedCount s = s.writeIndex - s.readIndex := by
  rw [Fin.ext_iff, occupiedCount_val, Fin.val_sub]
  omega

theorem occupiedCount_of_eq {s : State} (h : s.writeIndex = s.readIndex) : occupiedCount s = 0 :=
  Fin.ext ((occupiedCount_eq_zero s).2 h)

theorem occupiedCount_pos_iff (s : State) : 0 < (occupiedCount s).val ↔ s.writeIndex ≠ s.readIndex := by
  rw [Nat.pos_iff_ne_zero, ne_eq, occupiedCount_eq_zero]

/-- The push of a frame with three unread makes the indices meet (R74). -/
theorem nextIndex_writeIndex_of_three_unread {s : State} (h : (occupiedCount s).val = 3) :
    nextIndex s.writeIndex = s.readIndex := by
  rw [occupiedCount_val] at h
  rw [Fin.ext_iff, nextIndex_val]
  omega

/-! ### The pop, and GET_FRAME with it (R72, R73) -/

theorem pop_of_eq {s : State} (h : s.writeIndex = s.readIndex) : pop s = (none, s) := by
  rcases pop_cases s with ⟨-, hpop⟩ | ⟨hne, -⟩
  · exact hpop
  · exact absurd h hne

theorem exec_getFrame_of_eq {s : State} (h : s.writeIndex = s.readIndex) :
    exec .getFrame s = .next (deliver (.frame none) s) := by
  rw [exec_getFrame, pop_of_eq h]

/-- With nothing unread, the consumer sees a count of 0. -/
theorem exec_complete_of_eq {s : State} (h : s.writeIndex = s.readIndex) :
    exec .complete s = .next (deliver (.count 0) s) := by
  rw [exec_complete, occupiedCount_of_eq h]

/-- A pop writes neither `write_index` nor the record of results. -/
theorem pop_keeps_writeIndex_and_results (s : State) :
    (pop s).2.writeIndex = s.writeIndex ∧ (pop s).2.caller = s.caller ∧ (pop s).2.results = s.results := by
  rcases pop_cases s with ⟨-, h⟩ | ⟨-, h⟩
  · rw [h]; exact ⟨rfl, rfl, rfl⟩
  · rw [h]; exact ⟨rfl, rfl, rfl⟩

/-- GET_FRAME gives its caller one result more: what the pop gave. -/
theorem deliver_pop_results (s : State) :
    (deliver (.frame (pop s).1) (pop s).2).results = s.results ++ [⟨s.caller, .frame (pop s).1⟩] := by
  obtain ⟨-, hcaller, hresults⟩ := pop_keeps_writeIndex_and_results s
  rw [deliver_results, hcaller, hresults]

/-- A pop that gives a frame read the slot at `read_index`, which is not the write slot (R76). -/
theorem pop_eq_some {s : State} {f : Frame} (h : (pop s).1 = some f) :
    s.readIndex ≠ s.writeIndex ∧ f = readSlot s.readIndex s := by
  rcases pop_cases s with ⟨-, hpop⟩ | ⟨hne, hpop⟩
  · rw [hpop] at h; cases h
  · rw [hpop] at h
    exact ⟨hne.symm, (Option.some.inj h).symm⟩

/-! ### The commit, and who moves the indices (R69; 41_bit_assembler.md R60) -/

/-- The rollover point at every cursor: at 55 under REFERENCE, which no run reaches, the cursor wraps with no commit. -/
theorem rollover_nextCursor_eq (m : RolloverMode) (c : Fin 56) :
    rollover m (nextCursor c) = decide (c.val + 1 = m.bitsPerCommit) := by
  rw [Bool.eq_iff_iff, rollover_nextCursor_iff, decide_eq_true_iff]
  cases m with
  | reference => simp only [RolloverMode.bitsPerCommit]; omega
  | corrected => simp only [RolloverMode.bitsPerCommit]; omega

theorem commits_of_emits_none {l : Level} {s : State} (h : emitted s.lastSample l = none) : commits l s = false := by
  simp [commits, h]

/-- A FEED that emits a bit commits exactly when the assembler rolls over. -/
theorem commits_of_emits {l : Level} {s : State} {b : Bit} (h : emitted s.lastSample l = some b) :
    commits l s = rollover s.rolloverMode (nextCursor s.bitCursor) := by
  simp [commits, h, rollover_nextCursor_eq, beq_eq_decide]

theorem assemble_writeIndex (b : Bit) (s : State) :
    (assemble b s).writeIndex =
      if rollover s.rolloverMode (nextCursor s.bitCursor) then nextIndex s.writeIndex else s.writeIndex := by
  rcases assemble_cases b s with ⟨hroll, h⟩ | ⟨hroll, h⟩
  · rw [h, if_pos hroll]
  · rw [h, if_neg (Bool.eq_false_iff.1 hroll)]; rfl

theorem feed_writeIndex (l : Level) (s : State) :
    (feed l s).writeIndex = if commits l s then nextIndex s.writeIndex else s.writeIndex := by
  cases hemit : emitted s.lastSample l with
  | none => rw [feed_of_emits_none hemit, commits_of_emits_none hemit]; rfl
  | some b =>
    rw [feed_of_emits hemit, commits_of_emits hemit]
    exact assemble_writeIndex b (setLastSample l s)

theorem readSlot_feed_of_ne (l : Level) (s : State) {i : Fin 4} (hi : i ≠ s.writeIndex) :
    readSlot i (feed l s) = readSlot i s :=
  frame_ext fun p => slotBit_feed_of_not_written l s i p fun h => hi h.1

/-- A command leaves `write_index`, or is a FEED that commits and advances it. -/
theorem exec_writeIndex {i : Instr} {s t : State} (h : exec i s = .next t) :
    t.writeIndex = s.writeIndex ∨
    ∃ l, i = feedOf l ∧ commits l s = true ∧ t.writeIndex = nextIndex s.writeIndex := by
  rcases exec_cases h with ⟨l, rfl, rfl⟩ | ⟨-, rfl⟩ | ⟨-, rfl⟩ | ⟨-, rfl⟩
  · rw [feed_writeIndex]
    by_cases hcommit : commits l s = true
    · exact .inr ⟨l, rfl, hcommit, if_pos hcommit⟩
    · exact .inl (if_neg hcommit)
  · exact .inl rfl
  · exact .inl rfl
  · exact .inl (pop_keeps_writeIndex_and_results s).1

/-- A command leaves `read_index`, or is a GET_FRAME that finds a frame unread and advances it. -/
theorem exec_readIndex {i : Instr} {s t : State} (h : exec i s = .next t) :
    t.readIndex = s.readIndex ∨
    (i = .getFrame ∧ s.writeIndex ≠ s.readIndex ∧ t.readIndex = nextIndex s.readIndex) := by
  rcases exec_cases h with ⟨l, -, rfl⟩ | ⟨-, rfl⟩ | ⟨-, rfl⟩ | ⟨rfl, rfl⟩
  · exact .inl (feed_frame l s).1
  · exact .inl rfl
  · exact .inl rfl
  · rcases pop_cases s with ⟨-, hpop⟩ | ⟨hne, hpop⟩
    · rw [hpop]; exact .inl rfl
    · rw [hpop]; exact .inr ⟨rfl, hne, rfl⟩

theorem step_of_nothing_pending {s : State} (h : s.pending = []) : step s = .next s := by
  simp [step, takeRequest, h]

theorem step_writeIndex {s t : State} (h : step s = .next t) :
    t.writeIndex = s.writeIndex ∨
    ∃ l r rest, s.pending = r :: rest ∧ decodeWord r.word = feedOf l ∧ commits l s = true ∧
      t.writeIndex = nextIndex s.writeIndex := by
  rcases step_cases s with ⟨-, hidle⟩ | ⟨r, rest, hpending, hrun⟩
  · obtain rfl : s = t := Host.Outcome.next.inj (hidle.symm.trans h)
    exact .inl rfl
  · rcases exec_writeIndex (hrun.symm.trans h) with hsame | ⟨l, hword, hcommit, hnext⟩
    · exact .inl hsame
    · exact .inr ⟨l, r, rest, hpending, hword, hcommit, hnext⟩

theorem step_readIndex {s t : State} (h : step s = .next t) :
    t.readIndex = s.readIndex ∨
    ∃ r rest, s.pending = r :: rest ∧ decodeWord r.word = .getFrame ∧ s.writeIndex ≠ s.readIndex ∧
      t.readIndex = nextIndex s.readIndex := by
  rcases step_cases s with ⟨-, hidle⟩ | ⟨r, rest, hpending, hrun⟩
  · obtain rfl : s = t := Host.Outcome.next.inj (hidle.symm.trans h)
    exact .inl rfl
  · rcases exec_readIndex (hrun.symm.trans h) with hsame | ⟨hword, hne, hnext⟩
    · exact .inl hsame
    · exact .inr ⟨r, rest, hpending, hword, hne, hnext⟩

/-! ### The ring as a queue of unread frames (R22 of 10_state.md; R76, R77) -/

/-- The slot of the unread frame with `k` frames before it. -/
def unreadSlot (s : State) (k : Nat) : Fin 4 := Fin.ofNat 4 (s.readIndex.val + k)

theorem unreadSlot_val (s : State) (k : Nat) : (unreadSlot s k).val = (s.readIndex.val + k) % 4 := rfl

theorem unread_eq_map (s : State) :
    unread s = (List.range (occupiedCount s).val).map fun k => readSlot (unreadSlot s k) s := rfl

theorem unread_length (s : State) : (unread s).length = (occupiedCount s).val := by
  rw [unread_eq_map, List.length_map, List.length_range]

theorem unread_of_eq {s : State} (h : s.writeIndex = s.readIndex) : unread s = [] := by
  rw [unread_eq_map, occupiedCount_of_eq h]
  rfl

/-- The write slot holds no unread frame. -/
theorem unreadSlot_ne_writeIndex {s : State} {k : Nat} (hk : k < (occupiedCount s).val) :
    unreadSlot s k ≠ s.writeIndex := by
  rw [occupiedCount_val] at hk
  rw [ne_eq, Fin.ext_iff, unreadSlot_val]
  omega

/-- The write slot comes right after the unread frames. -/
theorem unreadSlot_occupiedCount (s : State) : unreadSlot s (occupiedCount s).val = s.writeIndex := by
  rw [Fin.ext_iff, unreadSlot_val, occupiedCount_val]
  omega

section
variable {s t : State}

/-- The unread frames see the indices and the slots other than the write slot. -/
theorem unread_congr (hwrite : t.writeIndex = s.writeIndex) (hread : t.readIndex = s.readIndex)
    (hslots : ∀ i, i ≠ s.writeIndex → readSlot i t = readSlot i s) : unread t = unread s := by
  rw [unread_eq_map, unread_eq_map, occupiedCount_congr hwrite hread]
  refine List.map_congr_left fun k hk => ?_
  rw [unreadSlot, hread]
  exact hslots _ (unreadSlot_ne_writeIndex (List.mem_range.1 hk))

/-- A push with room puts the write slot's frame at the back of the queue. -/
theorem unread_of_push (hroom : (occupiedCount s).val ≠ 3) (hwrite : t.writeIndex = nextIndex s.writeIndex)
    (hread : t.readIndex = s.readIndex) (hslots : ∀ i, i ≠ s.writeIndex → readSlot i t = readSlot i s) :
    unread t = unread s ++ [readSlot s.writeIndex t] := by
  have hcount : (occupiedCount t).val = (occupiedCount s).val + 1 := by
    rw [occupiedCount_val] at hroom
    rw [occupiedCount_val, occupiedCount_val, hwrite, hread, nextIndex_val]
    omega
  have hslot (k : Nat) : unreadSlot t k = unreadSlot s k := by rw [unreadSlot, hread, unreadSlot]
  rw [unread_eq_map, unread_eq_map, hcount, List.range_succ, List.map_append, List.map_singleton, hslot,
    unreadSlot_occupiedCount]
  congr 1
  refine List.map_congr_left fun k hk => ?_
  rw [hslot]
  exact hslots _ (unreadSlot_ne_writeIndex (List.mem_range.1 hk))

/-- Advancing `read_index` with a frame unread takes the front off the queue. -/
theorem unread_of_pop (hne : s.writeIndex ≠ s.readIndex) (hwrite : t.writeIndex = s.writeIndex)
    (hread : t.readIndex = nextIndex s.readIndex) (hslots : t.slots = s.slots) :
    unread s = readSlot s.readIndex s :: unread t := by
  have hcount : (occupiedCount s).val = (occupiedCount t).val + 1 := by
    have hpos := (occupiedCount_pos_iff s).2 hne
    rw [occupiedCount_val] at hpos
    rw [occupiedCount_val, occupiedCount_val, hwrite, hread, nextIndex_val]
    omega
  have hfront : unreadSlot s 0 = s.readIndex := by rw [Fin.ext_iff, unreadSlot_val]; omega
  have hslot (k : Nat) : unreadSlot s (k + 1) = unreadSlot t k := by
    rw [Fin.ext_iff, unreadSlot_val, unreadSlot_val, hread, nextIndex_val]
    omega
  rw [unread_eq_map, unread_eq_map, hcount, List.range_succ_eq_map, List.map_cons, List.map_map, hfront]
  congr 1
  refine List.map_congr_left fun k _ => ?_
  rw [Function.comp_apply, hslot, readSlot_congr hslots]

end

/-- A FEED that does not overflow: the queue gains the write slot's frame if it commits, and is left otherwise. -/
theorem unread_feed {l : Level} {s : State} (hroom : overflows l s = false) :
    unread (feed l s) = if commits l s then unread s ++ [readSlot s.writeIndex (feed l s)] else unread s := by
  have hwrite := feed_writeIndex l s
  obtain ⟨hread, -⟩ := feed_frame l s
  by_cases hcommit : commits l s = true
  · rw [if_pos hcommit] at hwrite ⊢
    have hcount : (occupiedCount s).val ≠ 3 := by simpa [overflows, hcommit] using hroom
    exact unread_of_push hcount hwrite hread fun _ => readSlot_feed_of_ne l s
  · rw [if_neg hcommit] at hwrite ⊢
    exact unread_congr hwrite hread fun _ => readSlot_feed_of_ne l s

/-- A pop gives the front of the queue and leaves the rest. -/
theorem pop_eq_queue (s : State) : (pop s).1 = (unread s).head? ∧ unread (pop s).2 = (unread s).tail := by
  rcases pop_cases s with ⟨heq, hpop⟩ | ⟨hne, hpop⟩
  · rw [hpop, unread_of_eq heq]; exact ⟨rfl, rfl⟩
  · have hqueue := unread_of_pop (t := (pop s).2) hne (by rw [hpop]; rfl) (by rw [hpop]; rfl) (by rw [hpop]; rfl)
    rw [hqueue, hpop]; exact ⟨rfl, rfl⟩

/-- A FEED that overflows makes the indices meet (R74). -/
theorem feed_indices_meet_of_overflows {l : Level} {s : State} (h : overflows l s = true) :
    (feed l s).writeIndex = (feed l s).readIndex := by
  simp only [overflows, Bool.and_eq_true, beq_iff_eq] at h
  obtain ⟨hcommit, hthree⟩ := h
  rw [feed_writeIndex, if_pos hcommit, (feed_frame l s).1, nextIndex_writeIndex_of_three_unread hthree]

/-! ### Every operation commutes with a rotation of the ring (the spec's decision D8)

A slot of the rotated state is named by its index plus `k`. -/

theorem nextIndex_add (i k : Fin 4) : nextIndex (i + k) = nextIndex i + k := by
  rw [nextIndex_eq_add_one, nextIndex_eq_add_one, add_right_comm]

/-- Two states that agree on every slot have the same slots. -/
theorem slots_ext {s t : State} (h : ∀ i, readSlot i s = readSlot i t) : s.slots = t.slots :=
  Vector.ext fun i hi => h ⟨i, hi⟩

section
variable (k : Fin 4) (s : State)

@[simp] theorem readSlot_rotate (i : Fin 4) : readSlot (i + k) (rotate k s) = readSlot i s := by
  simp [readSlot, rotate]

@[simp] theorem occupiedCount_rotate : occupiedCount (rotate k s) = occupiedCount s := by
  rw [occupiedCount_eq_sub, occupiedCount_eq_sub]
  exact add_sub_add_right_eq_sub _ _ _

theorem unreadSlot_rotate (n : Nat) : unreadSlot (rotate k s) n = unreadSlot s n + k := by
  have hread : (rotate k s).readIndex = s.readIndex + k := rfl
  rw [Fin.ext_iff, unreadSlot_val, hread, Fin.val_add, Fin.val_add, unreadSlot_val]
  omega

theorem unread_rotate : unread (rotate k s) = unread s := by
  rw [unread_eq_map, unread_eq_map, occupiedCount_rotate]
  refine List.map_congr_left fun n _ => ?_
  rw [unreadSlot_rotate, readSlot_rotate]

theorem writeSlotBit_rotate (i : Fin 4) (p : Fin 56) (b : Bit) :
    writeSlotBit (i + k) p b (rotate k s) = rotate k (writeSlotBit i p b s) := by
  have hslots : (writeSlotBit (i + k) p b (rotate k s)).slots = (rotate k (writeSlotBit i p b s)).slots := by
    refine slots_ext fun j => ?_
    obtain ⟨j, rfl⟩ : ∃ j', j = j' + k := ⟨j - k, (sub_add_cancel j k).symm⟩
    simp only [readSlot_writeSlotBit, readSlot_rotate, add_left_inj]
  exact congrArg (fun v => { rotate k s with slots := v }) hslots

theorem assemble_rotate (b : Bit) : assemble b (rotate k s) = rotate k (assemble b s) := by
  have hwritten : writeSlotBit (rotate k s).writeIndex (rotate k s).bitCursor b (rotate k s) =
      rotate k (writeSlotBit s.writeIndex s.bitCursor b s) := writeSlotBit_rotate k s _ _ b
  have hcommit (u : State) : commit (rotate k u) = rotate k (commit u) :=
    congrArg (fun i => setBitCursor 0 (setWriteIndex i (rotate k u))) (nextIndex_add u.writeIndex k)
  simp only [assemble, hwritten, hcommit, apply_ite (rotate k)]
  rfl

theorem feed_rotate (l : Level) : feed l (rotate k s) = rotate k (feed l s) := by
  cases hemit : emitted s.lastSample l with
  | none => rw [feed_of_emits_none hemit, feed_of_emits_none (s := rotate k s) hemit]; rfl
  | some b =>
    rw [feed_of_emits hemit, feed_of_emits (s := rotate k s) hemit, ← assemble_rotate]
    rfl

theorem pop_rotate : pop (rotate k s) = ((pop s).1, rotate k (pop s).2) := by
  have hfront : readSlot (rotate k s).readIndex (rotate k s) = readSlot s.readIndex s := readSlot_rotate k s _
  have hnext : setReadIndex (nextIndex (rotate k s).readIndex) (rotate k s) =
      rotate k (setReadIndex (nextIndex s.readIndex) s) :=
    congrArg (fun i => setReadIndex i (rotate k s)) (nextIndex_add s.readIndex k)
  by_cases h : 0 < (occupiedCount s).val
  · simp [pop, h, hfront, hnext]
  · simp [pop, h]

theorem exec_rotate (i : Instr) : exec i (rotate k s) = mapNext (rotate k) (exec i s) := by
  cases i with
  | feedIdle => exact congrArg Host.Outcome.next (feed_rotate k s .idle)
  | feedHigh => exact congrArg Host.Outcome.next (feed_rotate k s .high)
  | feedLow => exact congrArg Host.Outcome.next (feed_rotate k s .low)
  | reset => rfl
  | complete => rw [exec_complete, exec_complete, occupiedCount_rotate]; rfl
  | getFrame => rw [exec_getFrame, exec_getFrame, pop_rotate]; rfl
  | reserved3 | reserved5 | reserved6 | reserved7 | reserved9 => rfl
  | reservedA | reservedB | reservedD | reservedE | reservedF => rfl

theorem step_rotate : step (rotate k s) = mapNext (rotate k) (step s) := by
  cases hpending : s.pending with
  | nil => rw [step_of_nothing_pending hpending, step_of_nothing_pending (s := rotate k s) hpending, mapNext_next]
  | cons r rest =>
    rw [step_of_pending hpending, step_of_pending (s := rotate k s) hpending, ← exec_rotate]
    rfl

end

/-! ### The obligations -/

/-- Settles O28: command by command, every operation commutes with the rotation. -/
theorem absoluteIndicesAreUnobservable : Obligations.AbsoluteIndicesAreUnobservable :=
  fun k s => ⟨step_rotate k s, rfl, occupiedCount_rotate k s, unread_rotate k s⟩

/-- Settles O37: the queue after each command, by what the command does to the indices and the slots. -/
theorem ringRefinesTheQueue : Obligations.RingRefinesTheQueue := by
  intro s
  refine ⟨fun l hroom => ⟨_, exec_feedOf l s, unread_feed hroom⟩, ⟨_, exec_reset s, rfl⟩,
    ⟨_, occupiedCount s, exec_complete s, rfl, rfl, (unread_length s).symm⟩, ⟨_, exec_getFrame s, ?rest, ?front⟩⟩
  case rest => exact (pop_eq_queue s).2
  case front => rw [deliver_pop_results, (pop_eq_queue s).1]

/-- Settles O17: the result names what the pop gave. -/
theorem frameInProgressIsNeverPopped : Obligations.FrameInProgressIsNeverPopped := by
  intro s t f hexec hresults
  obtain rfl := Host.Outcome.next.inj ((exec_getFrame s).symm.trans hexec)
  have hpopped : (pop s).1 = some f := by simpa [deliver_pop_results, -deliver_results] using hresults
  obtain ⟨hne, hf⟩ := pop_eq_some hpopped
  obtain ⟨-, -, hslots⟩ := pop_frame s
  exact ⟨hne, hf, hslots⟩

/-- Settles O20: a step leaves an index or takes its `nextIndex`; the ranges are those of the types. -/
theorem indicesOnlyAdvance : Obligations.IndicesOnlyAdvance := by
  refine ⟨fun s => ⟨s.slots.length_toList, s.writeIndex.isLt, s.readIndex.isLt⟩, fun s t hstep => ⟨?write, ?read⟩,
    fun s t hreset => ?reset⟩
  case write => exact (step_writeIndex hstep).imp_right fun ⟨_, _, _, _, _, _, hnext⟩ => congrArg Fin.val hnext
  case read => exact (step_readIndex hstep).imp_right fun ⟨_, _, _, _, _, hnext⟩ => congrArg Fin.val hnext
  case reset =>
    obtain rfl := Host.Outcome.next.inj ((exec_reset s).symm.trans hreset)
    exact ⟨rfl, rfl⟩

/-- Settles O21: by what a step can do to each index. -/
theorem whoWritesTheIndices : Obligations.WhoWritesTheIndices := by
  refine fun s t hstep => ⟨fun hchange => ?write, fun hchange => ?read⟩
  case write =>
    obtain ⟨l, r, rest, hpending, hword, hcommit, -⟩ := (step_writeIndex hstep).resolve_left hchange
    exact ⟨l, r, rest, hpending, hword, hcommit⟩
  case read =>
    obtain ⟨r, rest, hpending, hword, hne, -⟩ := (step_readIndex hstep).resolve_left hchange
    exact ⟨r, rest, hpending, hword, hne⟩

/-- Settles O38: the indices meet, so the buffer is empty to the consumer. -/
theorem overflowEmptiesTheBuffer : Obligations.OverflowEmptiesTheBuffer := by
  intro l s hover
  have hmeet := feed_indices_meet_of_overflows hover
  obtain ⟨-, -, -, -, hresults⟩ := feed_frame l s
  exact ⟨_, exec_feedOf l s, hmeet, unread_of_eq hmeet, hresults, exec_complete_of_eq hmeet, exec_getFrame_of_eq hmeet⟩

/-- Settles O14: the count is a function of the indices, which RESET leaves. -/
theorem completeReturnsTheCount : Obligations.CompleteReturnsTheCount :=
  ⟨rfl, fun s => ⟨occupiedCount s, occupiedCount_val s, exec_complete s, rfl⟩, fun _ h => exec_complete_of_eq h,
    ⟨_, exec_complete_of_eq rfl, rfl⟩, fun s => ⟨_, _, _, exec_complete s, exec_reset s, exec_complete _, rfl⟩⟩

/-- Settles O15: the two cases of the pop, by whether the count is 0. -/
theorem getFramePops : Obligations.GetFramePops := by
  refine ⟨rfl, fun s hcount => ?unread, fun s hcount => ?empty⟩
  case unread =>
    exact ⟨nextIndex s.readIndex, nextIndex_val _, exec_getFrame_of_ne ((occupiedCount_pos_iff s).1 hcount)⟩
  case empty => exact exec_getFrame_of_eq ((occupiedCount_eq_zero s).1 hcount)

end Sys2Proof.Machine
end

section
/-! PROOFS. The family of 43_public_api.md: every command and every stream of them completes, what RESET clears, and that
FEED does not see the consumer's index. -/

namespace Sys2Proof.Machine

/-! ### The six commands, and lists of them (43_public_api.md R84) -/

theorem wellFormed_iff_mem_commands (i : Instr) :
    i.wellFormed = true ↔ i ∈ [.feedIdle, .feedHigh, .feedLow, .reset, .complete, .getFrame] := by
  cases i with
  | feedIdle | feedHigh | feedLow | reset | complete | getFrame => decide
  | reserved3 | reserved5 | reserved6 | reserved7 | reserved9 => decide
  | reservedA | reservedB | reservedD | reservedE | reservedF => decide

theorem runInstrs_of_wellFormed {is : List Instr} (h : ∀ i ∈ is, i.wellFormed = true) (s : State) :
    ∃ t, runInstrs is s = .next t := by
  induction is generalizing s with
  | nil => exact ⟨s, rfl⟩
  | cons i is ih =>
    obtain ⟨hi, his⟩ := List.forall_mem_cons.1 h
    obtain ⟨u, hexec⟩ := exec_of_wellFormed hi s
    rw [runInstrs_cons_of_next hexec]
    exact ih his u

/-! ### What a command does to the callers' record (30_encoding.md R48, 60_exceptions.md R90) -/

theorem pop_pending (s : State) : (pop s).2.pending = s.pending := by
  rcases pop_cases s with ⟨-, h⟩ | ⟨-, h⟩
  · rw [h]
  · rw [h, setReadIndex_pending]

theorem exec_keeps_pending {i : Instr} {s t : State} (h : exec i s = .next t) : t.pending = s.pending := by
  rcases exec_cases h with ⟨l, -, rfl⟩ | ⟨-, rfl⟩ | ⟨-, rfl⟩ | ⟨-, rfl⟩
  · obtain ⟨-, -, hpending, -⟩ := feed_frame l s
    exact hpending
  · rfl
  · rfl
  · rw [deliver_pending, pop_pending]

/-- The commands that give their caller a result: COMPLETE and GET_FRAME (30_encoding.md R48). -/
abbrev GivesResult (i : Instr) : Prop := i = .complete ∨ i = .getFrame

theorem not_givesResult_feedOf (l : Level) : ¬GivesResult (feedOf l) := by
  cases l with
  | idle | high | low => decide

/-- One result more, for the caller, from COMPLETE and GET_FRAME; none from FEED and RESET. -/
theorem exec_results_agents {i : Instr} {s t : State} (h : exec i s = .next t) :
    t.results.map Delivery.agent =
      s.results.map Delivery.agent ++ if GivesResult i then [s.caller] else [] := by
  rcases exec_cases h with ⟨l, rfl, rfl⟩ | ⟨rfl, rfl⟩ | ⟨rfl, rfl⟩ | ⟨rfl, rfl⟩
  · obtain ⟨-, -, -, -, hresults⟩ := feed_frame l s
    rw [hresults, if_neg (not_givesResult_feedOf l), List.append_nil]
  · rw [if_neg (by decide), List.append_nil]; rfl
  · rw [deliver_results, if_pos (by decide), List.map_append]; rfl
  · rw [deliver_pop_results, if_pos (by decide), List.map_append]; rfl

/-! ### A whole stream of requests (60_exceptions.md R90, 20_memory.md R36) -/

/-- The agents of a stream that are due a result, one entry per result, in the stream's order. -/
def agentsDue (rs : List Request) : List Agent :=
  (rs.filter fun r => GivesResult (decodeWord r.word)).map Request.agent

theorem agentsDue_cons (r : Request) (rs : List Request) :
    agentsDue (r :: rs) = (if GivesResult (decodeWord r.word) then [r.agent] else []) ++ agentsDue rs := by
  by_cases h : GivesResult (decodeWord r.word)
  · simp [agentsDue, h]
  · simp [agentsDue, h]

theorem run_succ_of_step {M : Host.Core} {s u : M.State} (h : M.step s = .next u) (n : Nat) :
    M.run (n + 1) s = M.run n u := by
  rw [Host.Core.run, h]

/-- A stream of commands is run in as many steps as it has requests, each result going to the agent it is due to. -/
theorem run_of_wellFormed_pending (rs : List Request) {s : State} (hpending : s.pending = rs)
    (hcommands : ∀ r ∈ rs, (decodeWord r.word).wellFormed = true) :
    ∃ t : State, Host.Core.run Sys2Proof.core rs.length s = .next t ∧ t.pending = [] ∧
      t.results.map Delivery.agent = s.results.map Delivery.agent ++ agentsDue rs := by
  induction rs generalizing s with
  | nil => exact ⟨s, rfl, hpending, (List.append_nil _).symm⟩
  | cons r rs ih =>
    obtain ⟨hr, hrs⟩ := List.forall_mem_cons.1 hcommands
    obtain ⟨u, hexec⟩ := exec_of_wellFormed hr { s with pending := rs, caller := r.agent }
    have hstep : step s = .next u := (step_of_pending hpending).trans hexec
    obtain ⟨t, hrun, hdone, hagents⟩ := ih (exec_keeps_pending hexec) hrs
    refine ⟨t, (run_succ_of_step (M := core) hstep rs.length).trans hrun, hdone, ?_⟩
    rw [hagents, exec_results_agents hexec, agentsDue_cons, List.append_assoc]

/-! ### FEED does not see `read_index` (43_public_api.md R80 (f)) -/

theorem assemble_setReadIndex (b : Bit) (r : Fin 4) (s : State) :
    assemble b (setReadIndex r s) = setReadIndex r (assemble b s) := by
  simp only [assemble, apply_ite (setReadIndex r)]
  rfl

theorem feed_setReadIndex (l : Level) (r : Fin 4) (s : State) :
    feed l (setReadIndex r s) = setReadIndex r (feed l s) := by
  cases hemit : emitted s.lastSample l with
  | none => rw [feed_of_emits_none hemit, feed_of_emits_none (s := setReadIndex r s) hemit]; rfl
  | some b =>
    rw [feed_of_emits hemit, feed_of_emits (s := setReadIndex r s) hemit, ← assemble_setReadIndex]
    rfl

/-! ### A whole frame sent, as the queue sees it (42_ring_buffer.md R70, 70_reset_and_hazards.md section 2) -/

/-- From a CORRECTED frame start at IDLE with room, SENDFRAME puts its seven bytes at the back of the queue: it writes
them to the write slot, where no unread frame stands, and pushes it. -/
theorem sendFrame_queues_frame (b0 b1 b2 b3 b4 b5 b6 : Byte) {s : State} (hmode : s.rolloverMode = .corrected)
    (hstart : s.bitCursor = 0) (hidle : s.lastSample = .idle) (hroom : (occupiedCount s).val < 3) :
    ∃ t, runInstrs (sendFrame b0 b1 b2 b3 b4 b5 b6) s = .next t ∧
      unread t = unread s ++ [frameOfBytes b0 b1 b2 b3 b4 b5 b6] ∧ t.results = s.results := by
  obtain ⟨t, hrun, hsame, hothers, h0, h1, h2, h3, h4, h5, h6⟩ :=
    correctedRoundTrip b0 b1 b2 b3 b4 b5 b6 s hmode hstart hidle
  have hsent : readSlot s.writeIndex t = frameOfBytes b0 b1 b2 b3 b4 b5 b6 := by
    rw [← h0, ← h1, ← h2, ← h3, ← h4, ← h5, ← h6]
    exact frame_eq_frameOfBytes _
  refine ⟨t, hrun, ?queue, by rw [hsame]⟩
  case queue =>
    rw [← hsent]
    exact unread_of_push hroom.ne (by rw [hsame]) (by rw [hsame]) hothers

/-! ### The obligations -/

/-- Settles O19: by induction on the pending requests; a command never waits, and gives its own caller its result. -/
theorem everyStreamRunsToItsEnd : Obligations.EveryStreamRunsToItsEnd :=
  fun s hcommands => run_of_wellFormed_pending s.pending rfl hcommands

/-- Settles O36: RESET leaves the queue as it is and the block at a frame start at IDLE, where `sendFrame_queues_frame`
applies. -/
theorem resetThenFrameAddsExactlyOne : Obligations.ResetThenFrameAddsExactlyOne := by
  intro b0 b1 b2 b3 b4 b5 b6 s hmode hroom
  obtain ⟨t, hrun, hqueue, hresults⟩ := sendFrame_queues_frame b0 b1 b2 b3 b4 b5 b6
    (s := setBitCursor 0 (setLastSample .idle s)) hmode rfl rfl hroom
  exact ⟨t, (runInstrs_cons_of_next (exec_reset s) _).trans hrun, hqueue, hresults⟩

/-- Settles O18: the table of the instructions, `exec` of each, and an induction on the list. -/
theorem everyCommandIsAlwaysAccepted : Obligations.EveryCommandIsAlwaysAccepted :=
  ⟨wellFormed_iff_mem_commands, fun _ s h => exec_of_wellFormed h s, fun _ s h => runInstrs_of_wellFormed h s⟩

/-- Settles O8: what RESET writes, it writes alike the second time, and at power-on the registers hold it already. -/
theorem resetClearsDecoderStateOnly : Obligations.ResetClearsDecoderStateOnly := by
  refine ⟨rfl, exec_reset, fun s t hreset => ?again, rfl⟩
  case again =>
    obtain rfl := Host.Outcome.next.inj ((exec_reset s).symm.trans hreset)
    exact ⟨rfl, rfl⟩

/-- Settles O13: the decoder and the assembler both commute with a write of `read_index`. -/
theorem feedIgnoresTheConsumer : Obligations.FeedIgnoresTheConsumer := by
  intro l s r
  rw [exec_feedOf, exec_feedOf, mapNext_next]
  exact congrArg Host.Outcome.next (feed_setReadIndex l r s)

end Sys2Proof.Machine
end

section
/-! PROOFS. The family of 60_exceptions.md: GET_FRAME always completes, and an empty read is a result. -/

namespace Sys2Proof.Machine

/-! ### GET_FRAME's result as its caller sees it (30_encoding.md R48, decision D12) -/

@[simp] theorem resultOk_frame (f : Option Frame) : resultOk (.frame f) = some f.isSome := rfl

@[simp] theorem resultFrame_frame (f : Option Frame) : resultFrame (.frame f) = f := rfl

/-! ### The obligations -/

/-- Settles O16: the one result is what the pop gave: no frame, from a state left as it is, where the indices are equal,
and a frame where they are not. -/
theorem emptyReadIsAResult : Obligations.EmptyReadIsAResult := by
  intro s
  refine ⟨_, .frame (pop s).1, exec_getFrame s, deliver_pop_results s, fun heq => ?empty, fun hne => ?unread⟩
  case empty =>
    rw [pop_of_eq heq, resultOk_frame, resultFrame_frame]
    exact ⟨rfl, rfl, rfl⟩
  case unread =>
    rw [pop_of_ne hne, resultOk_frame, resultFrame_frame]
    exact ⟨rfl, rfl⟩

end Sys2Proof.Machine
end

section
/-! PROOFS. The rules of the whole machine: words and streams of them (30_encoding.md sections 1 and 2), the step
(00_scope.md section 5), the callers' record and the agents' names (10_state.md section 5, 60_exceptions.md sections 2
and 3). -/

namespace Sys2Proof.Machine

/-! ### Words, and the hex text of a stream (30_encoding.md R42, R44, R46, the spec's decision D2) -/

/-- Each instruction's word decodes to it, so no two instructions share a word (R47). -/
@[simp] theorem decodeWord_encode (i : Instr) : decodeWord (encode i) = i := by
  cases i with
  | feedIdle | feedHigh | feedLow | reset | complete | getFrame => rfl
  | reserved3 | reserved5 | reserved6 | reserved7 | reserved9 => rfl
  | reservedA | reservedB | reservedD | reservedE | reservedF => rfl

theorem map_decodeWord_map_encode (is : List Instr) : (is.map encode).map decodeWord = is := by
  simp [Function.comp_def]

theorem wellFormed_decodeWord_iff (w : Word) :
    (decodeWord w).wellFormed = true ↔
      (opField w = 0b00#2 ∧ argField w ≠ 0b11#2) ∨ (opField w ≠ 0b00#2 ∧ argField w = 0b00#2) := by
  revert w
  decide

/-- The level code in `arg` is the sample of the FEED that the word spells (R45). -/
theorem decodeWord_eq_feedOf_iff (w : Word) (l : Level) :
    decodeWord w = feedOf l ↔ opField w = 0b00#2 ∧ levelOfCode (argField w) = some l := by
  revert w
  cases l with
  | idle | high | low => decide

theorem levelOfCode_levelCode (l : Level) : levelOfCode (levelCode l) = some l := by
  cases l with
  | idle | high | low => rfl

/-- A text reads as a stream exactly when its characters, one by one, read as the stream's words. -/
theorem streamOfHex_eq_some_iff (text : List Char) (ws : List Word) :
    streamOfHex text = some ws ↔ List.Forall₂ (fun digit w => wordOfDigit digit = some w) text ws := by
  induction text generalizing ws with
  | nil => simp [streamOfHex, eq_comm]
  | cons c cs ih =>
    rw [List.forall₂_cons_left_iff]
    cases hc : wordOfDigit c with
    | none => simp [streamOfHex, hc]
    | some w =>
      cases hcs : streamOfHex cs with
      | none => simp [streamOfHex, hc, hcs, ← ih]
      | some rest => simp [streamOfHex, hc, hcs, ← ih, eq_comm (a := ws)]

/-- Every stream is read back from its text. -/
theorem streamOfHex_hexOfStream (ws : List Word) : streamOfHex (hexOfStream ws) = some ws := by
  rw [streamOfHex_eq_some_iff, hexOfStream, List.forall₂_map_left_iff]
  exact List.forall₂_same.2 fun w _ => wordOfDigit_hexDigit w

/-! ### The step with a table word's command issued next (43_public_api.md R85) -/

/-- A command issued first is the next one run, and nothing else of the state has changed by then. -/
theorem step_issueFirst (w : Word) (s : State) : step (issueFirst w s) = exec (decodeWord w) s :=
  step_of_pending (s := issueFirst w s) (r := ⟨s.caller, w⟩) (rest := s.pending) rfl

theorem withFetchWord_of_tableCommand {nbits w : Nat} {c : Word} (h : tableCommand nbits w = some c) (s : State) :
    s.withFetchWord nbits w = issueFirst c s := by
  simp only [State.withFetchWord, h]

theorem step_withFetchWord {nbits w : Nat} {i : Instr} (h : decodeTableWord nbits w = some i) (s : State) :
    step (s.withFetchWord nbits w) = exec i s := by
  obtain ⟨c, hcommand, rfl⟩ := Option.map_eq_some_iff.1 h
  rw [withFetchWord_of_tableCommand hcommand, step_issueFirst]

/-! ### No operation reads the callers' record (10_state.md R26) -/

/-- The state with the model's record of its callers replaced. -/
def withRecord (pending : List Request) (caller : Agent) (results : List Delivery) (s : State) : State :=
  { s with pending := pending, caller := caller, results := results }

/-- Results as they would stand had `who` been the caller. -/
def deliveredTo (who : Agent) (ds : List Delivery) : List Delivery := ds.map fun d => ⟨who, d.result⟩

theorem deliveredTo_drop_append (who : Agent) (before new : List Delivery) :
    deliveredTo who ((before ++ new).drop before.length) = deliveredTo who new := by
  rw [List.drop_left]

theorem deliveredTo_drop_self (who : Agent) (before : List Delivery) :
    deliveredTo who (before.drop before.length) = [] := by
  rw [List.drop_length]
  rfl

/-- A command appends to the results already given. -/
theorem exec_results_prefix {i : Instr} {s t : State} (h : exec i s = .next t) : s.results <+: t.results := by
  rcases exec_cases h with ⟨l, -, rfl⟩ | ⟨-, rfl⟩ | ⟨-, rfl⟩ | ⟨-, rfl⟩
  · obtain ⟨-, -, -, -, hresults⟩ := feed_frame l s
    rw [hresults]
  · exact List.prefix_rfl
  · exact List.prefix_append ..
  · rw [deliver_pop_results]
    exact List.prefix_append ..

theorem mapNext_congr {f g : State → State} {o : Host.Outcome State Fault Refusal}
    (h : ∀ t, o = .next t → f t = g t) : mapNext f o = mapNext g o := by
  cases o with
  | next t => exact congrArg Host.Outcome.next (h t rfl)
  | fault | refused => rfl

section
variable (later : List Request) (who : Agent) (given : List Delivery) (s : State)

theorem assemble_withRecord (b : Bit) :
    assemble b (withRecord later who given s) = withRecord later who given (assemble b s) := by
  simp only [assemble, apply_ite (withRecord later who given)]
  rfl

theorem feed_withRecord (l : Level) :
    feed l (withRecord later who given s) = withRecord later who given (feed l s) := by
  cases hemit : emitted s.lastSample l with
  | none => rw [feed_of_emits_none hemit, feed_of_emits_none (s := withRecord later who given s) hemit]; rfl
  | some b =>
    rw [feed_of_emits hemit, feed_of_emits (s := withRecord later who given s) hemit, ← assemble_withRecord]
    rfl

theorem pop_withRecord :
    pop (withRecord later who given s) = ((pop s).1, withRecord later who given (pop s).2) := by
  rcases pop_cases s with ⟨heq, h⟩ | ⟨hne, h⟩
  · rw [h, pop_of_eq (s := withRecord later who given s) heq]
  · rw [h, pop_of_ne (s := withRecord later who given s) hne]; rfl

theorem deliver_withRecord (r : Result) :
    deliver r (withRecord later who given s) = withRecord later who (given ++ [⟨who, r⟩]) s := rfl

/-- With another record of its callers a command does the same to the block, and appends the same results, addressed to
the caller it now has. -/
theorem exec_withRecord (i : Instr) :
    exec i (withRecord later who given s) =
      mapNext (fun t => withRecord later who (given ++ deliveredTo who (t.results.drop s.results.length)) t)
        (exec i s) := by
  have hfeed (l : Level) : exec (feedOf l) (withRecord later who given s) = mapNext
      (fun t => withRecord later who (given ++ deliveredTo who (t.results.drop s.results.length)) t)
      (exec (feedOf l) s) := by
    obtain ⟨-, -, -, -, hresults⟩ := feed_frame l s
    rw [exec_feedOf, exec_feedOf, mapNext_next, feed_withRecord, hresults, deliveredTo_drop_self, List.append_nil]
  cases i with
  | feedIdle => exact hfeed .idle
  | feedHigh => exact hfeed .high
  | feedLow => exact hfeed .low
  | reset =>
    rw [exec_reset, exec_reset, mapNext_next, setBitCursor_results, setLastSample_results, deliveredTo_drop_self,
      List.append_nil]
    rfl
  | complete =>
    rw [exec_complete, exec_complete, mapNext_next, deliver_withRecord, deliver_results, deliveredTo_drop_append]
    rfl
  | getFrame =>
    rw [exec_getFrame, exec_getFrame, mapNext_next, pop_withRecord, deliver_withRecord, deliver_pop_results,
      deliveredTo_drop_append]
    rfl
  | reserved3 | reserved5 | reserved6 | reserved7 | reserved9 => rfl
  | reservedA | reservedB | reservedD | reservedE | reservedF => rfl

end

/-! ### Forgetting the agents' names is one such change of the record (60_exceptions.md R98, R101) -/

theorem exec_forgetAgents (i : Instr) (s : State) : exec i (forgetAgents s) = mapNext forgetAgents (exec i s) := by
  refine (exec_withRecord _ .producer (deliveredTo .producer s.results) s i).trans (mapNext_congr fun t hexec => ?_)
  have happended : deliveredTo .producer s.results ++ deliveredTo .producer (t.results.drop s.results.length) =
      deliveredTo .producer t.results := by
    rw [deliveredTo, deliveredTo, ← List.map_append, List.prefix_iff_eq_append.1 (exec_results_prefix hexec)]
    rfl
  rw [happended, ← exec_keeps_pending hexec]
  rfl

theorem step_forgetAgents (s : State) : step (forgetAgents s) = mapNext forgetAgents (step s) := by
  rcases step_cases s with ⟨hnone, hstep⟩ | ⟨r, rest, hpending, hstep⟩
  · have hnone' : (forgetAgents s).pending = [] := congrArg (List.map _) hnone
    rw [hstep, step_of_nothing_pending hnone', mapNext_next]
  · have hpending' : (forgetAgents s).pending = ⟨.producer, r.word⟩ :: rest.map fun q => ⟨.producer, q.word⟩ :=
      congrArg (List.map _) hpending
    rw [hstep, step_of_pending hpending', ← exec_forgetAgents]
    rfl

/-! ### The obligations -/

/-- Settles O3: each word's digit reads back as the word, and each instruction's word decodes to the instruction. -/
theorem streamTextRoundTrip : Obligations.StreamTextRoundTrip := by
  intro is
  rw [streamOfHex_hexOfStream, Option.map_some, map_decodeWord_map_encode]

/-- Settles O4: the text and the stream go digit by digit, and a digit that reads as a word is that word's, in capitals. -/
theorem streamTextReadsEveryDigit : Obligations.StreamTextReadsEveryDigit := by
  intro text ws hread
  have hdigits := (streamOfHex_eq_some_iff text ws).1 hread
  refine ⟨hdigits.length_eq.symm, Eq.symm ?capitals⟩
  case capitals =>
    rw [hexOfStream, ← List.forall₂_eq_eq_eq, List.forall₂_map_left_iff, List.forall₂_map_right_iff]
    exact hdigits.imp fun digit w h => (hexDigit_of_wordOfDigit h).symm

/-- Settles O26: `exec_withRecord`, the results given put in front of those already there. -/
theorem callersRecordIsNeverRead : Obligations.CallersRecordIsNeverRead :=
  fun i s given later who => exec_withRecord later who (given ++ s.results) s i

/-- Settles O27: the next request keeps its word, and its command commutes with forgetting the names. -/
theorem agentsNamesDoNotMatter : Obligations.AgentsNamesDoNotMatter := step_forgetAgents

/-- Settles O29: the commit parts the equal indices, so a GET_FRAME after it pops the slot just written and one before it
finds nothing. -/
theorem orderOfAgentsCanShow : Obligations.OrderOfAgentsCanShow := by
  intro l s hcommits hequal
  obtain ⟨hread, -, -, hcaller, hresults⟩ := feed_frame l s
  have hwrite : (feed l s).writeIndex = nextIndex s.writeIndex := by rw [feed_writeIndex, if_pos hcommits]
  have hunread : (feed l s).writeIndex ≠ (feed l s).readIndex := by
    rw [hwrite, hread, ← hequal]
    exact nextIndex_ne _
  refine ⟨?feedFirst, ?getFrameFirst⟩
  case feedFirst =>
    refine ⟨_, (runInstrs_cons_of_next (exec_feedOf l s) _).trans
      (runInstrs_cons_of_next (exec_getFrame_of_ne hunread) _), ?_, ?_⟩
    · rw [deliver_results, readSlot_deliver, readSlot_setReadIndex, setReadIndex_results, setReadIndex_caller,
        hresults, hcaller, hread, hequal]
    · rw [deliver_writeIndex, deliver_readIndex, setReadIndex_writeIndex, setReadIndex_readIndex, hwrite, hread, hequal]
  case getFrameFirst =>
    obtain ⟨hread', -, -, -, hresults'⟩ := feed_frame l (deliver (.frame none) s)
    refine ⟨_, (runInstrs_cons_of_next (exec_getFrame_of_eq hequal) _).trans
      (runInstrs_cons_of_next (exec_feedOf l _) _), hresults', ?_⟩
    have hwrite' : (feed l (deliver (.frame none) s)).writeIndex = nextIndex s.writeIndex := by
      rw [feed_writeIndex]
      exact if_pos hcommits
    rw [hwrite', hread', deliver_readIndex, ← hequal]
    exact nextIndex_ne _

/-- Settles O1: the six words by the decoder's table, and the two fields of every word. -/
theorem commandWordsDecode : Obligations.CommandWordsDecode :=
  ⟨rfl, rfl, rfl, rfl, rfl, rfl, wellFormed_decodeWord_iff, decodeWord_eq_feedOf_iff, levelOfCode_levelCode,
    rfl, rfl, rfl, rfl⟩

/-- Settles O5: the two things a step can do, and a table word as a command issued first. -/
theorem stepRunsTheNextCommand : Obligations.StepRunsTheNextCommand := by
  refine ⟨fun _ => step_of_nothing_pending, fun s r rest i hpending hword => ?pending,
    fun s _ _ _ h => step_withFetchWord h s⟩
  case pending => rw [step_of_pending hpending, hword]

/-- Settles O24: the cursor is 0, and either mode commits after at least one bit. -/
theorem powerOnMeetsTheInvariant : Obligations.PowerOnMeetsTheInvariant := bitsPerCommit_pos _

end Sys2Proof.Machine
end
